-- ==== Sys2Proof/Word.lean ====
section
/-! DEFINITION. The word type of the block: the byte, and the byte sequence every operand and frame is made of. -/

namespace Sys2Proof

/-- R11: an unsigned 8-bit value, bit 7 the most significant; no value of the spec is signed. -/
abbrev Byte := BitVec 8

/-- R12, R25: a finite list of bytes; index 0 is the first byte on the wire. -/
abbrev ByteSeq := List Byte

end Sys2Proof
end

