-- ==== Sys2Proof/Syntax.lean ====
section
/-! DEFINITION. The request as the block receives it (R36) and the instruction it stands for: one constructor of Instr
per row of spec/opcode_table.json (R39, R40). -/

namespace Sys2Proof

/-- R36: a request is presented whole, as a record of the 3-bit operation code and two operands. -/
structure Request where
  op : BitVec 3
  a  : ByteSeq
  b  : ByteSeq
  deriving DecidableEq, Repr

/-- The operation map of R39 with the three reserved codes of R40. Every request carries both operands; the operation
decides which of them it reads. -/
inductive Instr
  | xorfold     (a b : ByteSeq)
  | chkvalid    (a b : ByteSeq)
  | encode      (a b : ByteSeq)
  | bodylen     (a b : ByteSeq)
  | decode      (a b : ByteSeq)
  | reserved101 (a b : ByteSeq)
  | reserved110 (a b : ByteSeq)
  | reserved111 (a b : ByteSeq)
  deriving DecidableEq, Repr

namespace Instr

/-- The first operand (R36). -/
def operandA : Instr → ByteSeq
  | .xorfold a _ => a
  | .chkvalid a _ => a
  | .encode a _ => a
  | .bodylen a _ => a
  | .decode a _ => a
  | .reserved101 a _ => a
  | .reserved110 a _ => a
  | .reserved111 a _ => a

/-- The second operand (R36), read by DECODE only. -/
def operandB : Instr → ByteSeq
  | .xorfold _ b => b
  | .chkvalid _ b => b
  | .encode _ b => b
  | .bodylen _ b => b
  | .decode _ b => b
  | .reserved101 _ b => b
  | .reserved110 _ b => b
  | .reserved111 _ b => b

end Instr

end Sys2Proof
end

