-- ==== Sys2Proof/Decode.lean ====
section
/-! DEFINITION. The decoder from a request to an instruction, total on every 3-bit operation code (R39, R40), then the
encoder, and the opcode-table words the host numbers. -/

namespace Sys2Proof

/-- R39, R40: `op[2:0]` selects the operation. Every one of the eight codes has a row, so no request is rejected here:
a reserved code is an instruction whose answer is IllegalOperation. -/
def decode (r : Request) : Instr :=
  if r.op = 0b000#3 then .xorfold r.a r.b
  else if r.op = 0b001#3 then .chkvalid r.a r.b
  else if r.op = 0b010#3 then .encode r.a r.b
  else if r.op = 0b011#3 then .bodylen r.a r.b
  else if r.op = 0b100#3 then .decode r.a r.b
  else if r.op = 0b101#3 then .reserved101 r.a r.b
  else if r.op = 0b110#3 then .reserved110 r.a r.b
  else .reserved111 r.a r.b

/-- The operation code R39 and R40 give each instruction. -/
def opOf : Instr → BitVec 3
  | .xorfold _ _ => 0b000#3
  | .chkvalid _ _ => 0b001#3
  | .encode _ _ => 0b010#3
  | .bodylen _ _ => 0b011#3
  | .decode _ _ => 0b100#3
  | .reserved101 _ _ => 0b101#3
  | .reserved110 _ _ => 0b110#3
  | .reserved111 _ _ => 0b111#3

/-- The encoder: the request record (R36) of an instruction. -/
def encode (i : Instr) : Request :=
  { op := opOf i, a := i.operandA, b := i.operandB }

/-- The request an opcode-table word stands for: bits 2:0 are `op` (the table's mask is 0x7, so no other bit belongs to
the instruction) and both operands, to which the table gives no bits, are empty. A word of fewer than 3 bits is none. -/
def requestOfWord (nbits w : Nat) : Option Request :=
  if nbits < 3 then none else some { op := BitVec.ofNat 3 w, a := [], b := [] }

/-- The instruction the decoder reads from an opcode-table word. -/
def decodeTableWord (nbits w : Nat) : Option Instr :=
  (requestOfWord nbits w).map decode

end Sys2Proof
end

