-- ==== Sys2Proof/Config.lean ====
section
/-! DEFINITION. What a deployment fixes (VARIANT, SEND_LOCK) and the block's hardwired constants (R7, R8, R9, R20). -/

namespace Sys2Proof

/-- R7: the two response layouts; which one is active is a configuration choice, never read from data. -/
inductive Variant
  | A
  | B
  deriving DecidableEq, Repr

/-- The two parameters the spec leaves OPEN (R7, R9; D27, D22): both are arguments of the model, fixed once when the
client is constructed (R18, R93). -/
structure Configuration where
  /-- R7, R18: which response layout the block decodes. -/
  variant : Variant
  /-- R9, R72: whether the Exchange Client serialises concurrent SENDs with a lock. -/
  sendLock : Bool
  deriving DecidableEq, Repr

namespace Config

/-- R8, R20: the fixed 5-byte prefix of every command frame; `MONITOR_ID_OUT` is its byte 1. -/
def preamble : ByteSeq := [0xA6, 0x01, 0x00, 0x00, 0x00]

/-- R8, R20: the control byte of every command frame. -/
def controlOut : Byte := 0x01

/-- R8: the largest payload ENCODE accepts. -/
def maxPayload : Nat := 253

/-- R8, R21: the capacity of operand `a`. -/
def maxOperand : Nat := 261

/-- R36: the capacity of operand `b`. -/
def maxBodyOperand : Nat := 255

end Config

end Sys2Proof
end

