-- ==== Sys2Proof/Machine/State.lean ====
section
/-! DEFINITION. The machine's state and every type it is made of: the block's responses (R37, R38, R58), the host's
Exchange Client (R23), the inputs the environment supplies (R64, K9, K10), and the outputs. The block itself holds no
register, flag, memory or program counter (R16, R17, R19, R20, R21). -/

namespace Sys2Proof.Machine

/-! ## What the block answers -/

/-- R38: the names of the status codes in use; `Status.code` gives the 4-bit number. -/
inductive Status
  | ok
  | invalidPayloadLength
  | checksumMismatch
  | lengthError
  | illegalOperation
  | transportOpenError
  | writeError
  | readError
  | closeError
  deriving DecidableEq, Repr

/-- R38, R75 to R78: the four errors a block operation can raise; codes 8 to 11 are the host's only. -/
inductive BlockError
  | invalidPayloadLength
  | checksumMismatch
  | lengthError
  | illegalOperation
  deriving DecidableEq, Repr

/-- R58: the immutable record a successful DECODE returns. -/
structure Result where
  variant : Variant
  frame   : ByteSeq
  deriving DecidableEq, Repr

/-- R37: the value a response carries. -/
inductive Value
  | byte   (b : Byte)
  | frame  (f : ByteSeq)
  | result (r : Result)
  deriving DecidableEq, Repr

/-- R37: the response record; `value` is absent on an error, and for CHKVALID (a unit). -/
structure Response where
  status : Status
  value  : Option Value
  deriving DecidableEq, Repr

/-- R59 to R62: the accessors of a Result. -/
inductive Field
  | frame
  | header
  | body
  | headerByte
  | monitorId
  | category
  | page
  | function
  | length
  | control
  | data
  | checksum
  deriving DecidableEq, Repr

/-- What an accessor yields. -/
inductive FieldValue
  | byte  (b : Byte)
  | bytes (s : ByteSeq)
  deriving DecidableEq, Repr

/-! ## The transport, an external collaborator (R64) -/

/-- R64: an opaque transport handle; the number only tells handles apart. -/
structure TransportHandle where
  tag : Nat
  deriving DecidableEq, Repr

/-- R64, D21: an opaque transport error value; the number only tells values apart. -/
structure TransportErr where
  tag : Nat
  deriving DecidableEq, Repr

/-- R64: "a port identifier and baud rate (or an already-open transport)"; the identifier is a tag. -/
inductive LinkConfig
  | port        (identifier baudRate : Nat)
  | alreadyOpen (h : TransportHandle)
  deriving DecidableEq, Repr

/-- R64: the outcomes of TOpen. -/
inductive OpenAnswer
  | ok  (h : TransportHandle)
  | err (e : TransportErr)
  deriving DecidableEq, Repr

/-- R64: the outcomes of TWrite; `count` is how many bytes the transport took. -/
inductive WriteAnswer
  | ok  (count : Nat)
  | err (e : TransportErr)
  deriving DecidableEq, Repr

/-- R64: the outcomes of TReadExact. -/
inductive ReadAnswer
  | ok  (s : ByteSeq)
  | err (e : TransportErr)
  | eof
  deriving DecidableEq, Repr

/-- R64: the outcomes of TClose. -/
inductive CloseAnswer
  | ok
  | err (e : TransportErr)
  deriving DecidableEq, Repr

/-- R64: a call the host makes on the transport. -/
inductive TransportCall
  | tOpen      (cfg : LinkConfig)
  | tWrite     (h : TransportHandle) (s : ByteSeq)
  | tReadExact (h : TransportHandle) (n : Nat)
  | tClose     (h : TransportHandle)
  deriving DecidableEq, Repr

/-! ## The host's Exchange Client (R23) -/

/-- R23: `Closed`, or `Open(h)`. -/
inductive Handle
  | closed
  | opened (h : TransportHandle)
  deriving DecidableEq, Repr

/-- R23: `Free` or `Held`. -/
inductive Lock
  | free
  | held
  deriving DecidableEq, Repr

/-- The caller that issued a SEND (R72, R89); the number only tells callers apart. -/
abbrev Caller := Nat

/-- R66: where an in-flight SEND stands, with the local values its later steps read. -/
inductive SendStep
  /-- step 1, before the payload is encoded -/
  | encoding      (payload : ByteSeq)
  /-- step 2, TWrite of the frame outstanding -/
  | writing       (frame : ByteSeq)
  /-- step 3: `none` while TReadExact is outstanding, then the header it returned -/
  | readingHeader (received : Option ByteSeq)
  /-- step 4, body length derived: TReadExact of `n` bytes outstanding, or none issued when `n = 0` -/
  | readingBody   (header : ByteSeq) (n : Nat)
  /-- step 5, before DECODE -/
  | validating    (header body : ByteSeq)
  deriving DecidableEq, Repr

/-- R23, R66: `Idle`, or the one SEND in flight with its caller and the handle it captured. -/
inductive Phase
  | idle
  | inFlight (caller : Caller) (h : TransportHandle) (step : SendStep)
  deriving DecidableEq, Repr

/-- R23: the six phase labels of the spec. -/
inductive PhaseLabel
  | idle
  | encoding
  | writing
  | readingHeader
  | readingBody
  | validating
  deriving DecidableEq, Repr

/-- R72: a SEND that found the lock held. -/
structure WaitingSend where
  caller  : Caller
  payload : ByteSeq
  deriving DecidableEq, Repr

/-- R80: what a WriteError records. -/
inductive WriteCause
  | transport (e : TransportErr)
  | short     (count : Nat)
  deriving DecidableEq, Repr

/-- R81: which read failed. -/
inductive ReadPart
  | header
  | body
  deriving DecidableEq, Repr

/-- R81: why the read failed. -/
inductive ReadCause
  | transport (e : TransportErr)
  | eof
  deriving DecidableEq, Repr

/-- R75 to R82: what a host procedure raises, with the information each error records. -/
inductive HostError
  | codec              (e : BlockError)
  | transportOpenError (e : TransportErr)
  | writeError         (cause : WriteCause)
  | readError          (part : ReadPart) (cause : ReadCause)
  | closeError         (e : TransportErr)
  deriving DecidableEq, Repr

/-- How a host procedure returns to its caller: OPEN and CLOSE with `ok`, SEND with `result` (R65, R66, R71). -/
inductive HostOutcome
  | ok
  | result (r : Result)
  | raised (e : HostError)
  deriving DecidableEq, Repr

/-! ## Inputs and outputs -/

/-- What the outside world does to the machine, one event a step. The list of events is the schedule: it holds the
block requests, the host calls, and the transport's free answers (R64, K9, K10). -/
inductive Input
  /-- R92: the block is reset -/
  | reset
  /-- R93, R94 (1): the client is constructed and VARIANT (with SEND_LOCK) fixed -/
  | construct   (c : Configuration)
  /-- R36: a request is presented to the block -/
  | request     (r : Request)
  /-- R59 to R62: accessor `f` of the `k`-th Result the callers hold -/
  | access      (k : Nat) (f : Field)
  /-- R65: OPEN, with TOpen's answer -/
  | openLink    (cfg : LinkConfig) (answer : OpenAnswer)
  /-- R66: a caller starts a SEND -/
  | send        (caller : Caller) (payload : ByteSeq)
  /-- R72, K4: the schedule offers the lock to the `k`-th waiting SEND -/
  | grant       (k : Nat)
  /-- R66: the SEND in flight performs its next local action -/
  | proceed
  /-- R64: the transport answers the outstanding TWrite -/
  | writeAnswer (answer : WriteAnswer)
  /-- R64: the transport answers the outstanding TReadExact -/
  | readAnswer  (answer : ReadAnswer)
  /-- R71: CLOSE, with TClose's answer -/
  | closeLink   (answer : CloseAnswer)
  deriving DecidableEq, Repr

/-- What the machine shows the outside world (R90): block responses, transport calls, returns to callers, and accessor
answers. -/
inductive Output
  | response      (r : Response)
  | call          (c : TransportCall)
  | openReturned  (o : HostOutcome)
  | sendReturned  (caller : Caller) (o : HostOutcome)
  | closeReturned (o : HostOutcome)
  | field         (k : Nat) (f : Field) (v : FieldValue)
  deriving DecidableEq, Repr

/-! ## State -/

/-- The whole system: configuration, host state, held Results, the schedule still to come, and the outputs so far. -/
structure State where
  /-- R18, R93: `none` until VARIANT and SEND_LOCK are fixed, then constant -/
  config  : Option Configuration
  /-- R23: the transport handle -/
  handle  : Handle
  /-- R23: the SEND in flight, if any -/
  phase   : Phase
  /-- R23: the client's lock, which exists only when SEND_LOCK = true -/
  lock    : Option Lock
  /-- R72: the SENDs waiting for the lock, in order of arrival (the schedule picks any of them) -/
  waiting : List WaitingSend
  /-- R58: the Results the callers own, oldest first -/
  results : List Result
  /-- the schedule: what the outside world does next, first event first -/
  inputs  : List Input
  /-- everything the machine has shown the outside world, oldest first; nothing reads it -/
  trace   : List Output
  deriving DecidableEq, Repr

/-- Why a step stops because the environment broke the transport contract of R64 or the ownership of R89. All are safe: the
spec gives such an answer no meaning, and no block operation raises any of them. -/
inductive Fault
  /-- raised by `State.writeAnswered` and `State.readAnswered`: an answer came with no such call outstanding (safe) -/
  | answerWithoutCall
  /-- raised by the same two: TWrite took more bytes than it was given, or TReadExact returned another number of bytes
  than it was asked for (safe) -/
  | answerOutsideContract
  /-- R89, log entry 18: raised by `System.stepClient`: the step would leave two clients owning one transport handle, which is
  a TOpen that answered with a handle another client has open (safe) -/
  | handleOwnedByAnother
  deriving DecidableEq, Repr

/-- Why an event has no step. Each docstring names the rule that refuses it, or the log entry where the refusal is the model's
own; all are safe. -/
inductive Refusal
  /-- an instruction that has no meaning yet, by its mnemonic (safe; no arm uses it) -/
  | notModelled (mnemonic : String)
  /-- R93: a request before VARIANT is fixed; log entry 4: an OPEN or a SEND then (safe) -/
  | variantNotFixed
  /-- R18, K18: a construction that would change VARIANT; DESIGN CHOICE (log entry 23): any other second construction, which
  the spec leaves open (safe) -/
  | variantAlreadyFixed
  /-- R65, D26: OPEN while the handle is open (safe) -/
  | openWhileOpen
  /-- R66, D26: SEND while the handle is closed (safe) -/
  | sendWhileClosed
  /-- R72, K3: SEND while another is in flight, without the lock (safe) -/
  | sendWhileInFlight
  /-- R71, D26, K6: CLOSE while the handle is closed (safe) -/
  | closeWhileClosed
  /-- R71, D26, K7: CLOSE while a SEND is in flight (safe) -/
  | closeWhileInFlight
  /-- R60, K17: an accessor of a field the Result's layout lacks (safe) -/
  | fieldNotInLayout
  /-- log entry 12: an accessor of a Result no successful DECODE has returned (R58) (safe) -/
  | noSuchResult
  /-- log entry 12: a byte accessor past the end of the frame, which no Result of DECODE has (R59) (safe) -/
  | frameTooShort
  deriving DecidableEq, Repr

/-- What one step of this machine answers. -/
abbrev StepOutcome := Host.Outcome State Fault Refusal

namespace State

/-- R24, R92: the machine after reset, before the client is constructed: no response exists, the handle is closed, the
phase idle, and VARIANT has no default (R24), so it is still to be fixed (R93, R94 step 1). -/
def reset : State :=
  { config := none, handle := .closed, phase := .idle, lock := none, waiting := [], results := [], inputs := [],
    trace := [] }

end State

end Sys2Proof.Machine
end

