-- ==== Sys2Proof/Machine/Flags.lean ====
section
/-! DEFINITION. The status field. The block has no flags that persist (R19); each outcome is reported only in the
`status` of its own response (R37), numbered by R38. -/

namespace Sys2Proof.Machine

/-- R38: the 4-bit code of each status. -/
def Status.code : Status → BitVec 4
  | .ok => 0
  | .invalidPayloadLength => 1
  | .checksumMismatch => 2
  | .lengthError => 3
  | .illegalOperation => 4
  | .transportOpenError => 8
  | .writeError => 9
  | .readError => 10
  | .closeError => 11

/-- R38: the status a 4-bit code names; 5 to 7 and 12 to 15 are reserved. -/
def Status.ofCode (c : BitVec 4) : Option Status :=
  if c = 0 then some .ok
  else if c = 1 then some .invalidPayloadLength
  else if c = 2 then some .checksumMismatch
  else if c = 3 then some .lengthError
  else if c = 4 then some .illegalOperation
  else if c = 8 then some .transportOpenError
  else if c = 9 then some .writeError
  else if c = 10 then some .readError
  else if c = 11 then some .closeError
  else none

/-- R38: the status a block error is reported with. -/
def BlockError.status : BlockError → Status
  | .invalidPayloadLength => .invalidPayloadLength
  | .checksumMismatch => .checksumMismatch
  | .lengthError => .lengthError
  | .illegalOperation => .illegalOperation

/-- R38, R75 to R82: the status a host error is reported with. -/
def HostError.status : HostError → Status
  | .codec e => e.status
  | .transportOpenError _ => .transportOpenError
  | .writeError _ => .writeError
  | .readError _ _ => .readError
  | .closeError _ => .closeError

/-- R38: the status of a host procedure's return. -/
def HostOutcome.status : HostOutcome → Status
  | .ok => .ok
  | .result _ => .ok
  | .raised e => e.status

/-- R14, R74, R86: `raise`: the error's status and no value. This is all of the machine's error entry. -/
def Response.raise (e : BlockError) : Response := { status := e.status, value := none }

/-- R14: `return v`: status OK and the value, when the operation has one. -/
def Response.give (v : Option Value) : Response := { status := .ok, value := v }

/-- R14: every operation ends in exactly one of the two ways. -/
def Response.ofOutcome {α : Type} (wrap : α → Option Value) : Except BlockError α → Response
  | .ok v => Response.give (wrap v)
  | .error e => Response.raise e

/-- R58: the Result a response hands to whoever asked, if it hands one. -/
def Response.handedResults (r : Response) : List Result :=
  match r.value with
  | some (.result x) => [x]
  | some (.byte _) => []
  | some (.frame _) => []
  | none => []

/-- R23: the spec's label of a phase. -/
def Phase.label : Phase → PhaseLabel
  | .idle => .idle
  | .inFlight _ _ (.encoding _) => .encoding
  | .inFlight _ _ (.writing _) => .writing
  | .inFlight _ _ (.readingHeader _) => .readingHeader
  | .inFlight _ _ (.readingBody _ _) => .readingBody
  | .inFlight _ _ (.validating _ _) => .validating

end Sys2Proof.Machine
end

