-- ==== Sys2Proof/Machine/Operands.lean ====
section
/-! DEFINITION. The operands: header length by variant (R7, R8), the length limits of R41, and the two reads of an
operand byte sequence the rules use (R12). -/

namespace Sys2Proof.Machine

/-- R8: `HDR_LEN(A)` = 5 and `HDR_LEN(B)` = 6. -/
def hdrLen : Variant → Nat
  | .A => 5
  | .B => 6

/-- R11: the byte of a number from 0 to 255. -/
def byteOf (n : Nat) : Byte := BitVec.ofNat 8 n

/-- R12: the slice `s[i..j)`. -/
def slice (s : ByteSeq) (i j : Nat) : ByteSeq := (s.take j).drop i

/-- R41: XORFOLD takes `a` of 0 to 261 bytes. -/
def xorfoldFits (a : ByteSeq) : Bool := decide (a.length ≤ Config.maxOperand)

/-- R41: CHKVALID takes `a` of 1 to 261 bytes. -/
def chkvalidFits (a : ByteSeq) : Bool := decide (1 ≤ a.length ∧ a.length ≤ Config.maxOperand)

/-- R41, R53: ENCODE takes `a` of 0 to 253 bytes. -/
def encodeFits (a : ByteSeq) : Bool := decide (a.length ≤ Config.maxPayload)

/-- R41: BODYLEN and DECODE take a header of exactly `HDR_LEN(VARIANT)` bytes. -/
def headerFits (v : Variant) (a : ByteSeq) : Bool := decide (a.length = hdrLen v)

/-- R41: DECODE takes a body of 0 to 255 bytes. -/
def bodyFits (b : ByteSeq) : Bool := decide (b.length ≤ Config.maxBodyOperand)

end Sys2Proof.Machine
end

