-- ==== Sys2Proof/Machine/Ops.lean ====
section
/-! DEFINITION. The named operations every meaning is written over: the XOR-fold and the checksum comparison (R50, R51),
emitting an output, and the one way a block transaction ends (R14, R74). The block has no memory and no registers to
read or write (R15, R16, R21). It takes no trap (R86): an error is the response `Response.raise` builds, and nothing is saved,
masked or vectored, so nothing is returned from (R87). -/

namespace Sys2Proof.Machine

/-- R13, R50: the cumulative exclusive-OR of a byte sequence, `0x00` for the empty one. -/
def xorfold (s : ByteSeq) : Byte := s.foldl (fun acc c => acc ^^^ c) 0x00

/-- R51, R57: the last byte equals the XOR-fold of all the bytes before it; false of the empty sequence. -/
def checksumHolds (f : ByteSeq) : Bool :=
  f[f.length - 1]? == some (xorfold (slice f 0 (f.length - 1)))

namespace State

/-- Shows an output to the outside world. -/
def emit (o : Output) (s : State) : State := { s with trace := s.trace ++ [o] }

/-- R37, R58: a block transaction's one response, and the Result it hands over when it carries one. -/
def respond (r : Response) (s : State) : State :=
  { s with trace := s.trace ++ [.response r], results := s.results ++ r.handedResults }

/-- R93: what needs VARIANT is refused until VARIANT is fixed. -/
def withConfig (s : State) (k : Configuration → StepOutcome) : StepOutcome :=
  match s.config with
  | none => .refused .variantNotFixed
  | some c => k c

/-- R6, R30, R74: one atomic block transaction: a function of the request and VARIANT alone, and exactly one response. -/
def transact (s : State) (answer : Variant → Response) : StepOutcome :=
  s.withConfig fun c => .next (s.respond (answer c.variant))

end State

end Sys2Proof.Machine
end

