-- ==== Sys2Proof/Machine/Decoder.lean ====
section
/-! DEFINITION. BODYLEN and DECODE (spec/42_decoder.md), and the accessors of a Result (R58 to R62). -/

namespace Sys2Proof.Machine

/-- R47, R56: the body length a header byte 4 tells; variant B has none for `0x00`. -/
def bodyLengthOf (v : Variant) (len : Byte) : Except BlockError Byte :=
  match v with
  | .A => .ok len
  | .B => if len = 0x00 then .error .lengthError else .ok (byteOf (len.toNat - 1))

/-- R56: BODYLEN; it reads `header[4]` only. -/
def bodylenOp (v : Variant) (a : ByteSeq) : Except BlockError Byte :=
  if headerFits v a then
    match a[4]? with
    | some len => bodyLengthOf v len
    | none => .error .lengthError
  else .error .lengthError

/-- R57, R63: DECODE validates `a ++ b` as one frame and checks nothing but the checksum. -/
def decodeOp (v : Variant) (a b : ByteSeq) : Except BlockError Result :=
  if headerFits v a && bodyFits b then
    if checksumHolds (a ++ b) then .ok { variant := v, frame := a ++ b } else .error .checksumMismatch
  else .error .lengthError

/-- R56, R37: the response to BODYLEN carries the length as one byte. -/
def bodylenResponse (v : Variant) (a : ByteSeq) : Response :=
  Response.ofOutcome (fun n => some (.byte n)) (bodylenOp v a)

/-- R57, R37: the response to DECODE carries the Result. -/
def decodeResponse (v : Variant) (a b : ByteSeq) : Response :=
  Response.ofOutcome (fun r => some (.result r)) (decodeOp v a b)

/-- R46: a response frame's total length, told by its header; none where BODYLEN has no number. -/
def responseFrameLength (v : Variant) (hd : ByteSeq) : Option Nat :=
  match hd[4]? with
  | some len =>
    match v with
    | .A => some (5 + len.toNat)
    | .B => if len = 0x00 then none else some (5 + len.toNat)
  | none => none

/-- BODYLEN, op 011 (R56); `b` is ignored. -/
def execBodylen (a _b : ByteSeq) (s : State) : StepOutcome :=
  s.transact fun v => bodylenResponse v a

/-- DECODE, op 100 (R57). -/
def execDecode (a b : ByteSeq) (s : State) : StepOutcome :=
  s.transact fun v => decodeResponse v a b

/-! ## The Result's accessors -/

/-- R58, R59: `frame[0..H)`. -/
def Result.header (r : Result) : ByteSeq := slice r.frame 0 (hdrLen r.variant)

/-- R58, R59: `frame[H..len(frame))`. -/
def Result.body (r : Result) : ByteSeq := slice r.frame (hdrLen r.variant) r.frame.length

/-- R61: the body without its checksum byte, empty when the body is empty. -/
def Result.data (r : Result) : ByteSeq :=
  if r.body.length = 0 then [] else slice r.body 0 (r.body.length - 1)

/-- A byte of the frame by its index. Every frame DECODE returns has at least five bytes (R59), so the stop is for a frame
no Result holds. -/
def Result.byteAt (r : Result) (i : Nat) : Except Refusal FieldValue :=
  match r.frame[i]? with
  | some b => .ok (.byte b)
  | none => .error .frameTooShort

/-- R59 to R62: the accessors; a field the layout lacks has no value (R60). -/
def Result.read (r : Result) : Field → Except Refusal FieldValue
  | .frame => .ok (.bytes r.frame)
  | .header => .ok (.bytes r.header)
  | .body => .ok (.bytes r.body)
  | .headerByte => r.byteAt 0
  | .monitorId => r.byteAt 1
  | .category => r.byteAt 2
  | .page => r.byteAt 3
  | .function =>
    match r.variant with
    | .A => r.byteAt 4
    | .B => .error .fieldNotInLayout
  | .length =>
    match r.variant with
    | .A => .error .fieldNotInLayout
    | .B => r.byteAt 4
  | .control =>
    match r.variant with
    | .A => .error .fieldNotInLayout
    | .B => r.byteAt 5
  | .data => .ok (.bytes r.data)
  | .checksum => r.byteAt (r.frame.length - 1)

namespace State

/-- R58 to R62: a caller reads field `f` of the `k`-th Result it owns; the Result is unchanged. -/
def accessResult (k : Nat) (f : Field) (s : State) : StepOutcome :=
  match s.results[k]? with
  | none => .refused .noSuchResult
  | some r =>
    match r.read f with
    | .ok v => .next (s.emit (.field k f v))
    | .error e => .refused e

end State

end Sys2Proof.Machine
end

