-- ==== Sys2Proof/Machine/Encoder.lean ====
section
/-! DEFINITION. ENCODE (spec/41_encoder.md) and the command frame (R42, R43, R46). -/

namespace Sys2Proof.Machine

/-- R42, R53: the command frame up to its checksum: preamble, LEN, control, payload. -/
def commandBody (p : ByteSeq) : ByteSeq :=
  Config.preamble ++ [byteOf (p.length + 2)] ++ [Config.controlOut] ++ p

/-- R42, R53: the command frame; the checksum folds every byte already in it. -/
def commandFrame (p : ByteSeq) : ByteSeq := commandBody p ++ [xorfold (commandBody p)]

/-- R53: ENCODE; the length check comes before anything is built. -/
def encodeOp (a : ByteSeq) : Except BlockError ByteSeq :=
  if encodeFits a then .ok (commandFrame a) else .error .invalidPayloadLength

/-- R53, R37: the response to ENCODE carries the frame. -/
def encodeResponse (a : ByteSeq) : Response :=
  Response.ofOutcome (fun f => some (.frame f)) (encodeOp a)

/-- R46: a command frame's total length, told by its byte 5. -/
def commandFrameLength (f : ByteSeq) : Option Nat := (f[5]?).map fun len => len.toNat + 6

/-- ENCODE, op 010 (R53, R55); `b` is ignored and VARIANT is not read. -/
def execEncode (a _b : ByteSeq) (s : State) : StepOutcome :=
  s.transact fun _ => encodeResponse a

end Sys2Proof.Machine
end

