-- ==== Sys2Proof/Machine/Client.lean ====
section
/-! DEFINITION. The host's Exchange Client over the transport (spec/43_exchange_host.md): OPEN, SEND and CLOSE, the optional
lock, and what each answer of the transport does. One action is one step: a transport call and its answer are apart, and each
of SEND's block transactions (ENCODE, BODYLEN, DECODE) is a step of its own. -/

namespace Sys2Proof.Machine

namespace State

/-! ## Shared operations on the client's state -/

/-- R66: the SEND in flight moves to `step`. -/
def toStep (c : Caller) (h : TransportHandle) (step : SendStep) (s : State) : State :=
  { s with phase := .inFlight c h step }

/-- R66, R72: a SEND begins: it takes the lock, when there is one, before step 1. -/
def beginSend (c : Caller) (h : TransportHandle) (p : ByteSeq) (s : State) : State :=
  { s with phase := .inFlight c h (.encoding p), lock := s.lock.map fun _ => .held }

/-- R66, R72: a SEND returns: the phase is idle again and the lock, when there is one, released on every path. -/
def sendReturn (c : Caller) (o : HostOutcome) (s : State) : State :=
  { s with phase := .idle, lock := s.lock.map fun _ => .free, trace := s.trace ++ [.sendReturned c o] }

/-- R66, R69: SEND raises an error and returns at once, with no retry. -/
def sendRaise (c : Caller) (e : HostError) (s : State) : State := s.sendReturn c (.raised e)

/-! ## Construction, OPEN and CLOSE -/

/-- R93, R94 (1): VARIANT and SEND_LOCK are fixed; the lock, when it exists, starts free (R24). A later construction that would
change VARIANT is refused (R18, K18). DESIGN CHOICE (log entry 23, safe): a later construction that keeps VARIANT is refused
too; the spec refuses only a change and leaves this open. -/
def construct (c : Configuration) (s : State) : StepOutcome :=
  match s.config with
  | none => .next { s with config := some c, lock := if c.sendLock then some .free else none }
  | some _ => .refused .variantAlreadyFixed

/-- R65: what TOpen's answer leaves. -/
def openAnswered (answer : OpenAnswer) (s : State) : State :=
  match answer with
  | .ok h => { s with handle := .opened h, trace := s.trace ++ [.openReturned .ok] }
  | .err e => s.emit (.openReturned (.raised (.transportOpenError e)))

/-- R65, R94 (2): OPEN, which requires VARIANT fixed and the handle closed. -/
def openLink (cfg : LinkConfig) (answer : OpenAnswer) (s : State) : StepOutcome :=
  s.withConfig fun _ =>
    match s.handle with
    | .opened _ => .refused .openWhileOpen
    | .closed => .next ((s.emit (.call (.tOpen cfg))).openAnswered answer)

/-- R71: what CLOSE returns for TClose's answer. -/
def closeOutcome : CloseAnswer → HostOutcome
  | .ok => .ok
  | .err e => .raised (.closeError e)

/-- R71: CLOSE, which requires the handle open and no SEND in flight; the handle is closed whatever TClose answers. -/
def closeLink (answer : CloseAnswer) (s : State) : StepOutcome :=
  match s.handle with
  | .closed => .refused .closeWhileClosed
  | .opened h =>
    match s.phase with
    | .inFlight _ _ _ => .refused .closeWhileInFlight
    | .idle =>
      .next { s with handle := .closed, trace := s.trace ++ [.call (.tClose h), .closeReturned (closeOutcome answer)] }

/-! ## Starting a SEND, and the lock -/

/-- R66, R72: a SEND starts. It waits when the lock is held; without the lock, a second SEND has no step (K3). -/
def startSend (c : Caller) (p : ByteSeq) (s : State) : StepOutcome :=
  s.withConfig fun _ =>
    match s.handle with
    | .closed => .refused .sendWhileClosed
    | .opened h =>
      match s.lock with
      | some .held => .next { s with waiting := s.waiting ++ [{ caller := c, payload := p }] }
      | some .free | none =>
        match s.phase with
        | .idle => .next (s.beginSend c h p)
        | .inFlight _ _ _ => .refused .sendWhileInFlight

/-- R72, K4: the schedule offers the lock to the `k`-th waiting SEND, which starts when the lock is free; while the lock
is held, or when there is no such SEND, nothing moves. -/
def grant (k : Nat) (s : State) : StepOutcome :=
  match s.lock with
  | some .free =>
    match s.waiting[k]? with
    | some w => startSend w.caller w.payload { s with waiting := s.waiting.eraseIdx k }
    | none => .next s
  | some .held | none => .next s

/-! ## SEND's own actions -/

/-- R66 step 1: an over-long payload fails before the transport is touched; otherwise ENCODE, then TWrite is issued. -/
def encodeStep (c : Caller) (h : TransportHandle) (p : ByteSeq) (s : State) : State :=
  if p.length ≤ Config.maxPayload then
    match encodeOp p with
    | .ok f => ((s.respond (encodeResponse p)).toStep c h (.writing f)).emit (.call (.tWrite h f))
    | .error e => (s.respond (encodeResponse p)).sendRaise c (.codec e)
  else s.sendRaise c (.codec .invalidPayloadLength)

/-- R66 step 4: BODYLEN of the header; then TReadExact of the body is issued, unless it is empty (D13). -/
def deriveStep (v : Variant) (c : Caller) (h : TransportHandle) (hd : ByteSeq) (s : State) : State :=
  match bodylenOp v hd with
  | .ok n =>
    if n.toNat = 0 then (s.respond (bodylenResponse v hd)).toStep c h (.readingBody hd 0)
    else ((s.respond (bodylenResponse v hd)).toStep c h (.readingBody hd n.toNat)).emit (.call (.tReadExact h n.toNat))
  | .error e => (s.respond (bodylenResponse v hd)).sendRaise c (.codec e)

/-- R66 step 5: DECODE, and SEND returns its Result or raises its error. -/
def validateStep (v : Variant) (c : Caller) (hd bd : ByteSeq) (s : State) : State :=
  match decodeOp v hd bd with
  | .ok r => (s.respond (decodeResponse v hd bd)).sendReturn c (.result r)
  | .error e => (s.respond (decodeResponse v hd bd)).sendRaise c (.codec e)

/-- R66: the next local action of the SEND in flight. While a transport call is outstanding there is none: the SEND
blocks (R68, R99). -/
def advance (v : Variant) (c : Caller) (h : TransportHandle) (step : SendStep) (s : State) : State :=
  match step with
  | .encoding p => s.encodeStep c h p
  | .writing _ => s
  | .readingHeader none => s
  | .readingHeader (some hd) => s.deriveStep v c h hd
  | .readingBody hd n => if n = 0 then s.toStep c h (.validating hd []) else s
  | .validating hd bd => s.validateStep v c hd bd

/-- R66: the client acts; with no SEND in flight nothing moves. -/
def proceed (s : State) : StepOutcome :=
  match s.phase with
  | .idle => .next s
  | .inFlight c h step => s.withConfig fun cfg => .next (s.advance cfg.variant c h step)

/-! ## The transport's answers -/

/-- R66 step 2, R67, R70: a failed or short write ends the SEND with no read; a complete write is followed by the header
read, which is issued. -/
def writeAnswered (answer : WriteAnswer) (s : State) : StepOutcome :=
  match s.phase with
  | .inFlight c h (.writing f) =>
    match answer with
    | .err e => .next (s.sendRaise c (.writeError (.transport e)))
    | .ok n =>
      if n < f.length then .next (s.sendRaise c (.writeError (.short n)))
      else if n = f.length then
        s.withConfig fun cfg =>
          .next ((s.toStep c h (.readingHeader none)).emit (.call (.tReadExact h (hdrLen cfg.variant))))
      else .fault .answerOutsideContract
  | _ => .fault .answerWithoutCall

/-- R66 steps 3 and 4, R81: what TReadExact of `n` bytes answered: the bytes go on to step `next`; an error or end of file
ends the SEND. -/
def readCompleted (c : Caller) (h : TransportHandle) (part : ReadPart) (n : Nat) (next : ByteSeq → SendStep)
    (answer : ReadAnswer) (s : State) : StepOutcome :=
  match answer with
  | .err e => .next (s.sendRaise c (.readError part (.transport e)))
  | .eof => .next (s.sendRaise c (.readError part .eof))
  | .ok bytes => if bytes.length = n then .next (s.toStep c h (next bytes)) else .fault .answerOutsideContract

/-- R66 steps 3 and 4, R68: the outstanding read, of the header or of a body that is not empty, is answered. -/
def readAnswered (answer : ReadAnswer) (s : State) : StepOutcome :=
  match s.phase with
  | .inFlight c h (.readingHeader none) =>
    s.withConfig fun cfg =>
      s.readCompleted c h .header (hdrLen cfg.variant) (fun hd => .readingHeader (some hd)) answer
  | .inFlight c h (.readingBody hd n) =>
    if n = 0 then .fault .answerWithoutCall
    else s.readCompleted c h .body n (fun bd => .validating hd bd) answer
  | _ => .fault .answerWithoutCall

end State

end Sys2Proof.Machine
end

