-- ==== Sys2Proof/Machine/Checksum.lean ====
section
/-! DEFINITION. XORFOLD and CHKVALID (spec/40_checksum.md). -/

namespace Sys2Proof.Machine

/-- R50: XORFOLD. -/
def xorfoldOp (a : ByteSeq) : Except BlockError Byte :=
  if xorfoldFits a then .ok (xorfold a) else .error .lengthError

/-- R51: CHKVALID. -/
def chkvalidOp (a : ByteSeq) : Except BlockError Unit :=
  if chkvalidFits a then
    if checksumHolds a then .ok () else .error .checksumMismatch
  else .error .lengthError

/-- R50, R37: the response to XORFOLD carries the folded byte. -/
def xorfoldResponse (a : ByteSeq) : Response :=
  Response.ofOutcome (fun b => some (.byte b)) (xorfoldOp a)

/-- R51, R37: the response to CHKVALID carries no value. -/
def chkvalidResponse (a : ByteSeq) : Response :=
  Response.ofOutcome (fun _ => none) (chkvalidOp a)

/-- XORFOLD, op 000 (R50); `b` is ignored. -/
def execXorfold (a _b : ByteSeq) (s : State) : StepOutcome :=
  s.transact fun _ => xorfoldResponse a

/-- CHKVALID, op 001 (R51); `b` is ignored. -/
def execChkvalid (a _b : ByteSeq) (s : State) : StepOutcome :=
  s.transact fun _ => chkvalidResponse a

end Sys2Proof.Machine
end

