-- ==== Sys2Proof/Machine/Reserved.lean ====
section
/-! DEFINITION. The three reserved operation codes (R40, R78): status IllegalOperation, no value, no other effect. -/

namespace Sys2Proof.Machine

/-- R40, R83: the code is checked first, so the operands do not matter. -/
def reservedResponse : Response := Response.raise .illegalOperation

/-- op 101 (R40). -/
def execReserved101 (_a _b : ByteSeq) (s : State) : StepOutcome :=
  s.transact fun _ => reservedResponse

/-- op 110 (R40). -/
def execReserved110 (_a _b : ByteSeq) (s : State) : StepOutcome :=
  s.transact fun _ => reservedResponse

/-- op 111 (R40). -/
def execReserved111 (_a _b : ByteSeq) (s : State) : StepOutcome :=
  s.transact fun _ => reservedResponse

end Sys2Proof.Machine
end

