-- ==== Sys2Proof/Machine/Dispatch.lean ====
section
/-! DEFINITION. The dispatch from an instruction to its meaning, one arm per constructor of Instr. -/

namespace Sys2Proof.Machine

def exec (i : Instr) (s : State) : Host.Outcome State Fault Refusal :=
  match i with
  | .xorfold a b => Sys2Proof.Machine.execXorfold a b s
  | .chkvalid a b => Sys2Proof.Machine.execChkvalid a b s
  | .encode a b => Sys2Proof.Machine.execEncode a b s
  | .bodylen a b => Sys2Proof.Machine.execBodylen a b s
  | .decode a b => Sys2Proof.Machine.execDecode a b s
  | .reserved101 a b => Sys2Proof.Machine.execReserved101 a b s
  | .reserved110 a b => Sys2Proof.Machine.execReserved110 a b s
  | .reserved111 a b => Sys2Proof.Machine.execReserved111 a b s

end Sys2Proof.Machine
end

