-- ==== Sys2Proof/Machine/Deliver.lean ====
section
/-! DEFINITION. What each event of the schedule does: a request is decoded and executed by the block (R17, R36), a host
call or a transport answer is the client's (R65, R66, R71, R72). -/

namespace Sys2Proof.Machine

namespace State

/-- Takes the event at the head of the schedule off it. -/
def dropInput (s : State) : State := { s with inputs := s.inputs.tail }

/-- One event. A reset of the block clears nothing and sets nothing, since the block holds no state (R92). -/
def deliver (i : Input) (s : State) : StepOutcome :=
  match i with
  | .reset => .next s
  | .construct c => s.construct c
  | .request r => exec (Sys2Proof.decode r) s
  | .access k f => s.accessResult k f
  | .openLink cfg answer => s.openLink cfg answer
  | .send c p => s.startSend c p
  | .grant k => s.grant k
  | .proceed => s.proceed
  | .writeAnswer answer => s.writeAnswered answer
  | .readAnswer answer => s.readAnswered answer
  | .closeLink answer => s.closeLink answer

/-- One step: the next event of the schedule. With no event the machine is idle (R91): a SEND blocked on the transport
stays blocked (R68, R99). -/
def advanceSchedule (s : State) : StepOutcome :=
  match s.inputs.head? with
  | none => .next s
  | some i => s.dropInput.deliver i

/-- Puts the request of an opcode-table word at the head of the schedule. A request needs VARIANT fixed (R93): where it is
not, the spec's current layout B is fixed with it, without the lock. -/
def presentWord (s : State) (nbits w : Nat) : State :=
  match requestOfWord nbits w with
  | none => s
  | some r =>
    { s with
      config := some (s.config.getD { variant := .B, sendLock := false })
      inputs := .request r :: s.inputs }

end State

end Sys2Proof.Machine
end

