-- ==== Sys2Proof/Machine/Step.lean ====
section
/-! DEFINITION. The machine's step, and the host's way to place one instruction where the next step takes it. -/

namespace Sys2Proof.Machine

/-- One step of the machine: the next event of the schedule (R17: the block has no program counter; the request itself
starts the operation). -/
def step (s : State) : Host.Outcome State Fault Refusal := s.advanceSchedule

/-- The request of an opcode-table word is presented, so that the very next step runs it. -/
def State.withFetchWord (s : State) (nbits w : Nat) : State := s.presentWord nbits w

end Sys2Proof.Machine
end

