-- ==== Sys2Proof/Machine/Text.lean ====
section
/-! DEFINITION. The textual form of requests and responses (R48): a printer of each and a reader of requests. The text is a
list of characters. The three reserved codes, which have no mnemonic, are spelled `op=101` and so on, as
spec/95_test_vectors.md L2.6 spells them. -/

namespace Sys2Proof.Machine

/-- A text, character by character. -/
abbrev Text := List Char

/-- Why a text is not a request. -/
inductive TextError
  | unknownOperation
  | badOperandA
  | badOperandB
  | trailingText
  deriving DecidableEq, Repr

/-! ## Bytes and sequences -/

/-- R11: one hexadecimal digit of a number below 16. -/
def hexDigit (n : Nat) : Char := if n < 10 then Char.ofNat (48 + n) else Char.ofNat (55 + n)

/-- The value of a hexadecimal digit. -/
def hexValue (c : Char) : Option Nat :=
  if 48 ≤ c.toNat ∧ c.toNat ≤ 57 then some (c.toNat - 48)
  else if 65 ≤ c.toNat ∧ c.toNat ≤ 70 then some (c.toNat - 55)
  else none

/-- R48: `HH` is a byte in hexadecimal. -/
def byteText (b : Byte) : Text := [hexDigit (b.toNat / 16), hexDigit (b.toNat % 16)]

/-- The byte two hexadecimal digits spell. -/
def readByte (hi lo : Char) : Option Byte :=
  match hexValue hi, hexValue lo with
  | some h, some l => some (BitVec.ofNat 8 (h * 16 + l))
  | _, _ => none

/-- The bytes of a sequence after its opening bracket, separated by one space, with the closing bracket. -/
def seqBodyText : ByteSeq → Text
  | [] => [']']
  | [b] => byteText b ++ [']']
  | b :: c :: s => byteText b ++ ' ' :: seqBodyText (c :: s)

/-- R48: `[HH HH ...]`, and `[]` for the empty operand. -/
def seqText (s : ByteSeq) : Text := '[' :: seqBodyText s

/-- Reads one byte and what follows it in a sequence, up to the closing bracket. -/
def readSeqBody : Text → Option (ByteSeq × Text)
  | hi :: lo :: ']' :: rest => (readByte hi lo).map fun b => ([b], rest)
  | hi :: lo :: ' ' :: rest =>
    match readByte hi lo, readSeqBody rest with
    | some b, some (s, rest') => some (b :: s, rest')
    | _, _ => none
  | _ => none

/-- Reads `[HH HH ...]` or `[]`. -/
def readSeq : Text → Option (ByteSeq × Text)
  | '[' :: ']' :: rest => some ([], rest)
  | '[' :: rest => readSeqBody rest
  | _ => none

/-! ## Requests -/

/-- R39, R48: the mnemonic spells `op`. -/
def opText (op : BitVec 3) : Text :=
  if op = 0b000#3 then ['X', 'O', 'R', 'F', 'O', 'L', 'D']
  else if op = 0b001#3 then ['C', 'H', 'K', 'V', 'A', 'L', 'I', 'D']
  else if op = 0b010#3 then ['E', 'N', 'C', 'O', 'D', 'E']
  else if op = 0b011#3 then ['B', 'O', 'D', 'Y', 'L', 'E', 'N']
  else if op = 0b100#3 then ['D', 'E', 'C', 'O', 'D', 'E']
  else if op = 0b101#3 then ['o', 'p', '=', '1', '0', '1']
  else if op = 0b110#3 then ['o', 'p', '=', '1', '1', '0']
  else ['o', 'p', '=', '1', '1', '1']

/-- The eight operation codes. -/
def allOps : List (BitVec 3) := [0b000#3, 0b001#3, 0b010#3, 0b011#3, 0b100#3, 0b101#3, 0b110#3, 0b111#3]

/-- What is left of a text after a word at its front. -/
def strip : Text → Text → Option Text
  | [], cs => some cs
  | _ :: _, [] => none
  | w :: ws, c :: cs => if w = c then strip ws cs else none

/-- The operation at the front of a text, and what follows its spelling and one space. -/
def readOp (cs : Text) : Option (BitVec 3 × Text) :=
  allOps.findSome? fun op => (strip (opText op ++ [' ']) cs).map fun rest => (op, rest)

/-- Skips the spaces that line a listing up in columns. -/
def skipSpaces (cs : Text) : Text := cs.dropWhile fun c => c == ' '

/-- R48: the text of a request; `b=` is left out when `b = []`, but for DECODE. -/
def requestText (r : Request) : Text :=
  opText r.op ++ [' ', 'a', '='] ++ seqText r.a ++
    (if r.b = [] ∧ r.op ≠ 0b100#3 then [] else [' ', 'b', '='] ++ seqText r.b)

/-- R48: what follows operand `a`: nothing, which means `b = []`, or operand `b`. -/
def readOperandB (op : BitVec 3) (a : ByteSeq) (cs : Text) : Except TextError Request :=
  match cs with
  | [] => .ok { op := op, a := a, b := [] }
  | ' ' :: rest =>
    match (strip ['b', '='] (skipSpaces rest)).bind readSeq with
    | some (b, []) => .ok { op := op, a := a, b := b }
    | some (_, _ :: _) => .error .trailingText
    | none => .error .badOperandB
  | _ => .error .trailingText

/-- R48: reads a request. -/
def readRequest (cs : Text) : Except TextError Request :=
  match readOp cs with
  | none => .error .unknownOperation
  | some (op, rest) =>
    match (strip ['a', '='] (skipSpaces rest)).bind readSeq with
    | none => .error .badOperandA
    | some (a, rest') => readOperandB op a rest'

/-! ## Responses -/

/-- R38, R48: the name of a status. -/
def Status.text : Status → Text
  | .ok => ['O', 'K']
  | .invalidPayloadLength =>
    ['I', 'n', 'v', 'a', 'l', 'i', 'd', 'P', 'a', 'y', 'l', 'o', 'a', 'd', 'L', 'e', 'n', 'g', 't', 'h']
  | .checksumMismatch => ['C', 'h', 'e', 'c', 'k', 's', 'u', 'm', 'M', 'i', 's', 'm', 'a', 't', 'c', 'h']
  | .lengthError => ['L', 'e', 'n', 'g', 't', 'h', 'E', 'r', 'r', 'o', 'r']
  | .illegalOperation => ['I', 'l', 'l', 'e', 'g', 'a', 'l', 'O', 'p', 'e', 'r', 'a', 't', 'i', 'o', 'n']
  | .transportOpenError => ['T', 'r', 'a', 'n', 's', 'p', 'o', 'r', 't', 'O', 'p', 'e', 'n', 'E', 'r', 'r', 'o', 'r']
  | .writeError => ['W', 'r', 'i', 't', 'e', 'E', 'r', 'r', 'o', 'r']
  | .readError => ['R', 'e', 'a', 'd', 'E', 'r', 'r', 'o', 'r']
  | .closeError => ['C', 'l', 'o', 's', 'e', 'E', 'r', 'r', 'o', 'r']

/-- R48, R57: the text of a value: a byte, a frame, or a Result as R57's worked example prints one (the two braces are
characters 123 and 125). -/
def Value.text : Value → Text
  | .byte b => byteText b
  | .frame f => seqText f
  | .result r =>
    ['R', 'e', 's', 'u', 'l', 't', Char.ofNat 123, 'f', 'r', 'a', 'm', 'e', '='] ++ seqText r.frame ++ [Char.ofNat 125]

/-- R48: `-> OK <value>`, `-> OK`, or `-> <ErrorName>`. -/
def responseText (r : Response) : Text :=
  ['-', '>', ' '] ++ r.status.text ++
    (match r.value with
     | some v => ' ' :: v.text
     | none => [])

end Sys2Proof.Machine
end

