-- ==== Sys2Proof/Machine/System.lean ====
section
/-! DEFINITION. Several clients side by side (R89): each owns its transport handle and state, and a step is one client's. -/

namespace Sys2Proof.Machine

/-- R89: the clients of a system, each with its own block configuration, transport and callers. -/
abbrev System := List State

/-- R89: a client other than `k` has the open handle `hd`. -/
def System.clashes (y : System) (k : Nat) (hd : Handle) : Bool :=
  match hd with
  | .closed => false
  | .opened _ => (y.eraseIdx k).any fun s => decide (s.handle = hd)

/-- R89: client `k` takes its next step; the others do not move. With no such client nothing moves. Each client owns its
handle exclusively: a step that would leave client `k` with a handle another client has open stops (log entry 18). -/
def System.stepClient (y : System) (k : Nat) : Host.Outcome System Fault Refusal :=
  match y[k]? with
  | none => .next y
  | some s =>
    match step s with
    | .next s' => if y.clashes k s'.handle then .fault .handleOwnedByAnother else .next (y.set k s')
    | .fault f => .fault f
    | .refused r => .refused r

end Sys2Proof.Machine
end

