-- ==== Sys2Proof/Safety.lean ====
section
/-! DEFINITION. What counts as a good state and a safe run: the invariant of the whole machine, the order of transport calls
that R72 and R95 to R97 ask of a run, and safety of a run of k steps. -/

namespace Sys2Proof.Machine

/-! ## What the block answers -/

/-- R14, R37: in state `s` the block answers instruction `i` with response `r`, and does nothing else. -/
def Answers (i : Instr) (s : State) (r : Response) : Prop := exec i s = .next (s.respond r)

/-- R41: the operands of `i` are outside the lengths its operation takes, in variant `v`. -/
def operandsViolate (v : Variant) : Instr → Prop
  | .xorfold a _ => 261 < a.length
  | .chkvalid a _ => a.length < 1 ∨ 261 < a.length
  | .encode a _ => 253 < a.length
  | .bodylen a _ => a.length ≠ hdrLen v
  | .decode a b => a.length ≠ hdrLen v ∨ 255 < b.length
  | .reserved101 _ _ | .reserved110 _ _ | .reserved111 _ _ => False

/-- R41: the error a violation is reported with: the source's own for ENCODE, LengthError for the others. -/
def violationStatus : Instr → Status
  | .encode _ _ => .invalidPayloadLength
  | .xorfold _ _ | .chkvalid _ _ | .bodylen _ _ | .decode _ _ => .lengthError
  | .reserved101 _ _ | .reserved110 _ _ | .reserved111 _ _ => .illegalOperation

/-! ## The data an in-flight SEND carries -/

/-- R66: what each step of a SEND may assume of the values the earlier steps left it, in variant `v`. -/
def SendStep.dataOk (v : Variant) : SendStep → Prop
  | .encoding _ => True
  | .writing f => ∃ p, p.length ≤ Config.maxPayload ∧ f = commandFrame p
  | .readingHeader none => True
  | .readingHeader (some hd) => hd.length = hdrLen v
  | .readingBody hd n => hd.length = hdrLen v ∧ ∃ len, bodylenOp v hd = .ok len ∧ len.toNat = n
  | .validating hd bd => hd.length = hdrLen v ∧ ∃ len, bodylenOp v hd = .ok len ∧ len.toNat = bd.length

/-- R66: a SEND in flight runs on a configured client whose handle is the one it captured. -/
def State.inFlightOk (s : State) : Prop :=
  ∀ c h step, s.phase = .inFlight c h step →
    s.handle = .opened h ∧ ∃ cfg, s.config = some cfg ∧ step.dataOk cfg.variant

/-! ## The lock -/

/-- R23, R72: the lock exists exactly when SEND_LOCK = true; it is held exactly while a SEND is in flight; without it no
SEND waits. -/
def State.lockOk (s : State) : Prop :=
  (∀ cfg, s.config = some cfg → (s.lock.isSome = true ↔ cfg.sendLock = true)) ∧
  (s.config = none → s.lock = none) ∧
  (∀ l, s.lock = some l → (l = .held ↔ s.phase ≠ .idle)) ∧
  (s.lock = none → s.waiting = [])

/-! ## The Results -/

/-- R57, R58, R59, R62: what holds of every Result: a whole header, at most a body of 255 bytes, and a last byte equal to
the XOR-fold of the rest. -/
def Result.valid (r : Result) : Prop :=
  hdrLen r.variant ≤ r.frame.length ∧ r.frame.length ≤ hdrLen r.variant + Config.maxBodyOperand ∧
    checksumHolds r.frame = true

/-- R18, R58: every Result was decoded under the client's VARIANT and is valid. -/
def State.resultsOk (s : State) : Prop :=
  ∀ r ∈ s.results, r.valid ∧ ∃ cfg, s.config = some cfg ∧ r.variant = cfg.variant

/-- R94: a client that is not constructed has not opened its transport. -/
def State.handleOk (s : State) : Prop := s.config = none → s.handle = .closed

/-! ## The order of transport calls -/

/-- Where the transport stands in the exchange on it (R96). -/
inductive Exchange
  /-- no exchange under way -/
  | between
  /-- the frame is being written -/
  | wrote
  /-- the header is being read, or was read and no body read has been issued -/
  | readHeader
  /-- the body is being read, or was read -/
  | readBody
  deriving DecidableEq, Repr

/-- R66, R72, R95: one output moves the exchange on, or is out of order (`none`): a write starts an exchange, a header read
follows the write, a body read follows the header read, and the link is opened and closed only between exchanges. -/
def Exchange.next (x : Exchange) (o : Output) : Option Exchange :=
  match o with
  | .call (.tWrite _ _) =>
    match x with
    | .between => some .wrote
    | .wrote | .readHeader | .readBody => none
  | .call (.tReadExact _ _) =>
    match x with
    | .wrote => some .readHeader
    | .readHeader => some .readBody
    | .between | .readBody => none
  | .call (.tOpen _) | .call (.tClose _) =>
    match x with
    | .between => some .between
    | .wrote | .readHeader | .readBody => none
  | .sendReturned _ _ => some .between
  | .response _ | .openReturned _ | .closeReturned _ | .field _ _ _ => some x

/-- Where a whole trace of outputs leaves the exchange; `none` when a call in it was out of order. -/
def exchangeAfter (t : List Output) : Option Exchange :=
  t.foldlM Exchange.next .between

/-- Where the exchange stands in each phase (R66). -/
def Phase.exchange : Phase → Exchange
  | .idle => .between
  | .inFlight _ _ (.encoding _) => .between
  | .inFlight _ _ (.writing _) => .wrote
  | .inFlight _ _ (.readingHeader _) => .readHeader
  | .inFlight _ _ (.readingBody _ n) => if n = 0 then .readHeader else .readBody
  | .inFlight _ _ (.validating _ bd) => if bd = [] then .readHeader else .readBody

/-- R72, R95, R96: the calls of the trace are in order, and stand where the phase says. -/
def State.exchangeOk (s : State) : Prop := exchangeAfter s.trace = some s.phase.exchange

/-! ## Several clients -/

/-- R89: each client owns its transport handle exclusively: no two clients of the system have one handle open. -/
def System.Exclusive (y : System) : Prop :=
  ∀ (j k : Nat) (s t : State) (h : TransportHandle), j ≠ k → y[j]? = some s → y[k]? = some t →
    s.handle = .opened h → t.handle ≠ .opened h

/-! ## The invariant, and safe runs -/

/-- The invariant of the whole machine. -/
structure State.Inv (s : State) : Prop where
  inFlight : s.inFlightOk
  lock     : s.lockOk
  results  : s.resultsOk
  handle   : s.handleOk
  exchange : s.exchangeOk

/-- A run of `k` steps is safe when it ends in neither a fault nor a refusal. -/
def SafeRun (k : Nat) (s : State) : Prop := ∃ t, Host.Core.run Sys2Proof.core k s = .next t

/-- The calls a trace makes on the transport, in order. -/
def transportCalls (t : List Output) : List TransportCall :=
  t.filterMap fun o =>
    match o with
    | .call c => some c
    | .response _ | .openReturned _ | .sendReturned _ _ | .closeReturned _ | .field _ _ _ => none

/-- The block responses of a trace, in order. -/
def blockResponses (t : List Output) : List Response :=
  t.filterMap fun o =>
    match o with
    | .response r => some r
    | .call _ | .openReturned _ | .sendReturned _ _ | .closeReturned _ | .field _ _ _ => none

end Sys2Proof.Machine
end

