-- ==== Sys2Proof/Certificates/Slice0/Obligations.lean ====
section
/-! DEFINITION. The statements for the provers. Each docstring names the rule of spec/ it formalises, or says that it rests on
a choice of the model and names the log entry. -/

open Sys2Proof Sys2Proof.Machine

/-! ## The five operations and the reserved codes -/

/-- R50: op 000 is XORFOLD; it answers the XOR-fold of `a`, or LengthError past 261 bytes, whatever `b` is, and changes
nothing but the trace of outputs. The fold is `0x00` on the empty sequence and XORs in one byte at a time. -/
def Obligations.XorfoldAnswersTheFold : Prop :=
  (∀ (a b : ByteSeq) (s : State) (cfg : Configuration), s.config = some cfg →
    decode { op := 0b000#3, a := a, b := b } = .xorfold a b ∧
    exec (.xorfold a b) s = .next { s with trace := s.trace ++ [.response
      (if a.length ≤ 261 then { status := .ok, value := some (.byte (xorfold a)) }
       else { status := .lengthError, value := none })] }) ∧
  xorfold [] = 0x00#8 ∧
  ∀ (s : ByteSeq) (c : Byte), xorfold (s ++ [c]) = xorfold s ^^^ c

/-- R50 corner cases (2), (3), (4): the fold does not depend on the order of the bytes, a byte that occurs an even number of
times cancels out, appending the fold gives `0x00`, and one byte folds to itself. -/
def Obligations.XorfoldIgnoresOrderAndCancelsPairs : Prop :=
  (∀ s t : ByteSeq, s.Perm t → xorfold s = xorfold t) ∧
  (∀ (s : ByteSeq) (c : Byte), s.count c % 2 = 0 → xorfold (s.filter (fun x => x != c)) = xorfold s) ∧
  (∀ s : ByteSeq, xorfold (s ++ [xorfold s]) = 0x00#8) ∧
  ∀ c : Byte, xorfold [c] = c

/-- R51: op 001 is CHKVALID; LengthError for an empty or over-long frame, else OK with no value when the last byte equals the
XOR-fold of the bytes before it, else ChecksumMismatch; nothing changes but the trace of outputs. -/
def Obligations.ChkvalidComparesTheLastByte : Prop :=
  ∀ (a b : ByteSeq) (s : State) (cfg : Configuration), s.config = some cfg →
    decode { op := 0b001#3, a := a, b := b } = .chkvalid a b ∧
    exec (.chkvalid a b) s = .next { s with trace := s.trace ++ [.response
      { status :=
          if a = [] ∨ 261 < a.length then .lengthError
          else if a.getLast? = some (xorfold a.dropLast) then .ok else .checksumMismatch
        value := none }] }

/-- R51 corner case (1): within the length limits CHKVALID succeeds exactly when the whole frame folds to `0x00`. -/
def Obligations.ChkvalidPassesExactlyOnZeroFold : Prop :=
  ∀ (a b : ByteSeq) (s : State) (cfg : Configuration), s.config = some cfg → 1 ≤ a.length → a.length ≤ 261 →
    Answers (.chkvalid a b) s
      { status := if xorfold a = 0x00#8 then .ok else .checksumMismatch, value := none }

/-- R52, first sentence: a frame that passes CHKVALID, damaged by one flip mask per byte, passes again exactly when the masks
XOR to `0x00`. -/
def Obligations.DamageIsMissedExactlyWhenMasksCancel : Prop :=
  ∀ (f masks b : ByteSeq) (s : State),
    Answers (.chkvalid f b) s { status := .ok, value := none } → masks.length = f.length →
    (Answers (.chkvalid (List.zipWith (fun x m => x ^^^ m) f masks) b) s { status := .ok, value := none } ↔
      xorfold masks = 0x00#8)

/-- R52, first and last bullets: flipping any one bit of a frame that passes is detected, by CHKVALID and, at the same
header and body split, by DECODE. -/
def Obligations.EverySingleBitFlipIsDetected : Prop :=
  (∀ (f b : ByteSeq) (s : State) (i k : Nat) (x : Byte), f[i]? = some x → k < 8 →
    Answers (.chkvalid f b) s { status := .ok, value := none } →
    Answers (.chkvalid (f.set i (x ^^^ (1#8 <<< k))) b) s { status := .checksumMismatch, value := none }) ∧
  (∀ (hd bd : ByteSeq) (s : State) (r : Result) (i k : Nat) (x : Byte), k < 8 →
    Answers (.decode hd bd) s { status := .ok, value := some (.result r) } →
    (hd[i]? = some x →
      Answers (.decode (hd.set i (x ^^^ (1#8 <<< k))) bd) s { status := .checksumMismatch, value := none }) ∧
    (bd[i]? = some x →
      Answers (.decode hd (bd.set i (x ^^^ (1#8 <<< k)))) s { status := .checksumMismatch, value := none }))

/-- R53: op 010 is ENCODE; a payload of at most 253 bytes gives preamble, LEN = len + 2, control, payload and the fold of all
of these; a longer one gives InvalidPayloadLength; nothing changes but the trace of outputs. -/
def Obligations.EncodeBuildsTheCommandFrame : Prop :=
  ∀ (a b : ByteSeq) (s : State) (cfg : Configuration), s.config = some cfg →
    decode { op := 0b010#3, a := a, b := b } = .encode a b ∧
    exec (.encode a b) s = .next { s with trace := s.trace ++ [.response
      (if a.length ≤ 253 then
        { status := .ok
          value := some (.frame
            ([0xA6#8, 0x01#8, 0x00#8, 0x00#8, 0x00#8, BitVec.ofNat 8 (a.length + 2), 0x01#8] ++ a ++
              [xorfold ([0xA6#8, 0x01#8, 0x00#8, 0x00#8, 0x00#8, BitVec.ofNat 8 (a.length + 2), 0x01#8] ++ a)])) }
       else { status := .invalidPayloadLength, value := none })] }

/-- R54: what every ENCODE result has: its length, preamble, LEN, control, payload, and that it passes CHKVALID and folds to
`0x00`. -/
def Obligations.EncodeResultHasItsProperties : Prop :=
  ∀ (p b b' f : ByteSeq) (s : State), p.length ≤ 253 →
    Answers (.encode p b) s { status := .ok, value := some (.frame f) } →
    f.length = p.length + 8 ∧ slice f 0 5 = Config.preamble ∧
    (f[5]?).map BitVec.toNat = some (p.length + 2) ∧ f[6]? = some 0x01#8 ∧
    slice f 7 (7 + p.length) = p ∧
    Answers (.chkvalid f b') s { status := .ok, value := none } ∧ xorfold f = 0x00#8

/-- R55: ENCODE is a function of `a` alone: any two states, variants and second operands give the same response, which hands
over no Result. -/
def Obligations.EncodeReadsItsPayloadOnly : Prop :=
  ∀ (a b b' : ByteSeq) (s s' : State) (cfg cfg' : Configuration), s.config = some cfg → s'.config = some cfg' →
    ∃ r : Response, r.handedResults = [] ∧ Answers (.encode a b) s r ∧ Answers (.encode a b') s' r

/-- R56: op 011 is BODYLEN; in variant A a 5-byte header gives its byte 4, in variant B a 6-byte header gives byte 4 less one
or, when that byte is `0x00`, LengthError; a header of any other length gives LengthError. -/
def Obligations.BodylenDerivesTheBodyLength : Prop :=
  ∀ (a b : ByteSeq) (s : State) (cfg : Configuration), s.config = some cfg →
    decode { op := 0b011#3, a := a, b := b } = .bodylen a b ∧
    (cfg.variant = .A →
      (∀ h0 h1 h2 h3 len : Byte, a = [h0, h1, h2, h3, len] →
        exec (.bodylen a b) s = .next { s with trace := s.trace ++ [.response
          { status := .ok, value := some (.byte len) }] }) ∧
      (a.length ≠ 5 →
        exec (.bodylen a b) s = .next { s with trace := s.trace ++ [.response
          { status := .lengthError, value := none }] })) ∧
    (cfg.variant = .B →
      (∀ h0 h1 h2 h3 len ctl : Byte, a = [h0, h1, h2, h3, len, ctl] →
        exec (.bodylen a b) s = .next { s with trace := s.trace ++ [.response
          (if len = 0x00#8 then { status := .lengthError, value := none }
           else { status := .ok, value := some (.byte (len - 1#8)) })] }) ∧
      (a.length ≠ 6 →
        exec (.bodylen a b) s = .next { s with trace := s.trace ++ [.response
          { status := .lengthError, value := none }] }))

/-- R57, R63: op 100 is DECODE; with a whole header and a body of at most 255 bytes it compares the last byte of `a ++ b` with
the fold of the bytes before it and nothing else: on a match the Result of `a ++ b` is returned and held, on a mismatch there
is ChecksumMismatch and no Result; operands of other lengths give LengthError. -/
def Obligations.DecodeValidatesTheWholeFrame : Prop :=
  ∀ (a b : ByteSeq) (s : State) (cfg : Configuration), s.config = some cfg →
    decode { op := 0b100#3, a := a, b := b } = .decode a b ∧
    exec (.decode a b) s = .next
      (if a.length = (if cfg.variant = .A then 5 else 6) ∧ b.length ≤ 255 then
        if (a ++ b).getLast? = some (xorfold (a ++ b).dropLast) then
          { s with
            trace := s.trace ++ [.response
              { status := .ok, value := some (.result { variant := cfg.variant, frame := a ++ b }) }]
            results := s.results ++ [{ variant := cfg.variant, frame := a ++ b }] }
        else { s with trace := s.trace ++ [.response { status := .checksumMismatch, value := none }] }
       else { s with trace := s.trace ++ [.response { status := .lengthError, value := none }] })

/-- R40: op 101, 110 and 111 are the reserved operations; each answers IllegalOperation and no value whatever its operands,
and has no other effect. -/
def Obligations.ReservedCodesAnswerIllegalOperation : Prop :=
  ∀ (a b : ByteSeq) (s : State) (cfg : Configuration), s.config = some cfg →
    ∀ oi ∈ [(0b101#3, Instr.reserved101 a b), (0b110#3, .reserved110 a b), (0b111#3, .reserved111 a b)],
      decode { op := oi.1, a := a, b := b } = oi.2 ∧
      exec oi.2 s =
        .next { s with trace := s.trace ++ [.response { status := .illegalOperation, value := none }] }

/-! ## The block as a whole -/

/-- R14, R37, R38, R88: on a configured client every instruction answers next, with exactly one response; a status other than
OK carries no value, and the host's codes 8 to 11 are never the block's. -/
def Obligations.EveryInstructionAnswersOnce : Prop :=
  ∀ (i : Instr) (s : State) (cfg : Configuration), s.config = some cfg →
    ∃ r : Response, Answers i s r ∧ (r.status ≠ .ok → r.value = none) ∧
      r.status ∈ [Status.ok, .invalidPayloadLength, .checksumMismatch, .lengthError, .illegalOperation]

/-- R41, R83: the operand lengths are checked before anything else but the operation code: operands outside the limits of R41
give the error R41 names and no value, whatever their bytes; within the limits the only error is the operation's own condition:
LengthError of BODYLEN in variant B for a byte 4 of `0x00`, ChecksumMismatch of CHKVALID and DECODE. -/
def Obligations.OperandLengthsAreCheckedFirst : Prop :=
  ∀ (i : Instr) (s : State) (cfg : Configuration), s.config = some cfg →
    (operandsViolate cfg.variant i → Answers i s { status := violationStatus i, value := none }) ∧
    (¬ operandsViolate cfg.variant i → ∀ r, Answers i s r → r.status ≠ .ok →
      (r.status = .checksumMismatch ∧ ∃ a b, i = .chkvalid a b ∨ i = .decode a b) ∨
      (r.status = .lengthError ∧ cfg.variant = .B ∧ ∃ a b, i = .bodylen a b ∧ a[4]? = some 0x00#8) ∨
      (r.status = .illegalOperation ∧ ∃ a b, i = .reserved101 a b ∨ i = .reserved110 a b ∨ i = .reserved111 a b))

/-- R16, R74: whatever instruction the block performs, the configuration, the host's handle, phase, lock and waiting SENDs, and
the schedule are unchanged; one response is added to the outputs, and Results are only ever added. -/
def Obligations.BlockLeavesTheHostUntouched : Prop :=
  ∀ (i : Instr) (s t : State), exec i s = .next t →
    t.config = s.config ∧ t.handle = s.handle ∧ t.phase = s.phase ∧ t.lock = s.lock ∧ t.waiting = s.waiting ∧
    t.inputs = s.inputs ∧
    ∃ r : Response, t.trace = s.trace ++ [.response r] ∧ t.results = s.results ++ r.handedResults ∧
      ((∀ a b, i ≠ .decode a b) → t.results = s.results)

/-- R74, R87: after any error the block accepts the next request at once: on a constructed client no sequence of requests,
whatever they answer, stops the run. -/
def Obligations.RequestsNeverStopTheBlock : Prop :=
  ∀ (s : State) (cfg : Configuration) (requests : List Request) (k : Nat), s.config = some cfg →
    s.inputs = requests.map Input.request → SafeRun k s

/-- R30: each operation is a function of its request and VARIANT alone: in any two states of one variant, whatever their host
state and history, the same instruction gives the same response. -/
def Obligations.AnswerDependsOnRequestAndVariant : Prop :=
  ∀ (i : Instr) (s s' : State) (cfg cfg' : Configuration), s.config = some cfg → s'.config = some cfg' →
    cfg.variant = cfg'.variant → ∃ r : Response, Answers i s r ∧ Answers i s' r

/-- R32: two transactions give the same responses in either order of issue; only the order in which responses and Results
appear differs. -/
def Obligations.OrderOfIssueDoesNotMatter : Prop :=
  ∀ (i j : Instr) (s : State) (cfg : Configuration), s.config = some cfg →
    ∃ (ri rj : Response) (t t' u u' : State),
      exec i s = .next t ∧ exec j t = .next u ∧ exec j s = .next t' ∧ exec i t' = .next u' ∧
      u = { s with trace := s.trace ++ [.response ri, .response rj], results := u.results } ∧
      u' = { s with trace := s.trace ++ [.response rj, .response ri], results := u'.results } ∧
      u.results.Perm u'.results

/-- R93, R18: a request before VARIANT is fixed is refused, a construction that would change VARIANT is refused, and no step
changes a configuration once fixed. That a second construction is refused also when it keeps VARIANT is no rule of the spec but
the model's choice (log entry 23). -/
def Obligations.VariantIsFixedOnceBeforeAnyRequest : Prop :=
  (∀ (r : Request) (s : State) (rest : List Input), s.config = none → s.inputs = .request r :: rest →
    step s = .refused .variantNotFixed) ∧
  (∀ (cfg cfg' : Configuration) (s : State) (rest : List Input), s.config = some cfg →
    s.inputs = .construct cfg' :: rest → step s = .refused .variantAlreadyFixed) ∧
  ∀ (s t : State) (cfg : Configuration), s.config = some cfg → step s = .next t → t.config = some cfg

/-! ## Results and their accessors -/

/-- R59: the accessors both layouts have, for a held Result whose frame has at least four bytes: each is a pure read of the
frame, and answers it. -/
def Obligations.CommonAccessorsReadTheFrame : Prop :=
  ∀ (s : State) (k : Nat) (r : Result) (hb mid cat pg : Byte) (rest : ByteSeq),
    s.results[k]? = some r → r.frame = hb :: mid :: cat :: pg :: rest →
    ∀ fv ∈ [(Field.frame, FieldValue.bytes r.frame),
        (.header, .bytes (r.frame.take (if r.variant = .A then 5 else 6))),
        (.body, .bytes (r.frame.drop (if r.variant = .A then 5 else 6))),
        (.headerByte, .byte hb), (.monitorId, .byte mid), (.category, .byte cat), (.page, .byte pg)],
      s.accessResult k fv.1 = .next { s with trace := s.trace ++ [.field k fv.1 fv.2] }

/-- R60: byte 4 is `function` in variant A and `length` in variant B, where byte 5 is `control`; an accessor of a field the
layout lacks is refused and answers no byte. -/
def Obligations.VariantAccessorsFollowTheLayout : Prop :=
  ∀ (s : State) (k : Nat) (r : Result), s.results[k]? = some r → r.valid →
    (r.variant = .A →
      (∃ x, r.frame[4]? = some x ∧
        s.accessResult k .function = .next { s with trace := s.trace ++ [.field k .function (.byte x)] }) ∧
      s.accessResult k .length = .refused .fieldNotInLayout ∧
      s.accessResult k .control = .refused .fieldNotInLayout) ∧
    (r.variant = .B →
      s.accessResult k .function = .refused .fieldNotInLayout ∧
      (∃ x, r.frame[4]? = some x ∧
        s.accessResult k .length = .next { s with trace := s.trace ++ [.field k .length (.byte x)] }) ∧
      ∃ x, r.frame[5]? = some x ∧
        s.accessResult k .control = .next { s with trace := s.trace ++ [.field k .control (.byte x)] })

/-- R61: the data payload is the body without its last byte, and empty when the body has at most one byte. -/
def Obligations.DataIsTheBodyWithoutItsChecksum : Prop :=
  ∀ (s : State) (k : Nat) (r : Result), s.results[k]? = some r →
    s.accessResult k .data =
      .next { s with trace := s.trace ++ [.field k .data
        (.bytes ((r.frame.drop (if r.variant = .A then 5 else 6)).dropLast))] } ∧
    r.data.length = r.body.length - 1

/-- R62: the checksum accessor answers the last byte of the frame, which is the XOR-fold of all the others, and which is the
last header byte when the body is empty. -/
def Obligations.ChecksumAccessorIsTheFoldOfTheRest : Prop :=
  ∀ (s : State) (k : Nat) (r : Result), s.results[k]? = some r → r.valid →
    s.accessResult k .checksum =
      .next { s with trace := s.trace ++ [.field k .checksum (.byte (xorfold r.frame.dropLast))] } ∧
    r.frame.getLast? = some (xorfold r.frame.dropLast) ∧
    (r.body = [] → r.header.getLast? = r.frame.getLast?)

/-- R58: nothing modifies a held Result: every step leaves it where it was, unchanged. -/
def Obligations.HeldResultsNeverChange : Prop :=
  ∀ (s t : State) (k : Nat) (r : Result), step s = .next t → s.results[k]? = some r → t.results[k]? = some r

/-- R58: a Result exists only as the value of a successful DECODE: where the held Results are those the responses of the trace
handed over, they are so after every step. -/
def Obligations.ResultsComeFromResponsesOnly : Prop :=
  ∀ s t : State, s.results = (blockResponses s.trace).flatMap Response.handedResults → step s = .next t →
    t.results = (blockResponses t.trace).flatMap Response.handedResults

/-- spec/95_test_vectors.md L2.7 (from R56, R57, R61): a device-style response built by the layout of either variant, with its
last byte the fold of the rest, has the body length its header tells, decodes, and gives back the data it was built with. -/
def Obligations.DeviceResponseRoundTrip : Prop :=
  ∀ (s : State) (cfg : Configuration) (hb mid cat pg ctl : Byte) (d hd bd b : ByteSeq),
    s.config = some cfg →
    d.length ≤ (if cfg.variant = .A then 254 else 253) →
    hd = (if cfg.variant = .A then [hb, mid, cat, pg, BitVec.ofNat 8 (d.length + 1)]
          else [hb, mid, cat, pg, BitVec.ofNat 8 (d.length + 2), ctl]) →
    bd = d ++ [xorfold (hd ++ d)] →
    Answers (.bodylen hd b) s { status := .ok, value := some (.byte (BitVec.ofNat 8 bd.length)) } ∧
    bd.length < 256 ∧
    ∃ r : Result, Answers (.decode hd bd) s { status := .ok, value := some (.result r) } ∧
      r.variant = cfg.variant ∧ r.header = hd ∧ r.body = bd ∧ r.data = d

/-! ## Encodings -/

/-- R36, R39, R40: decoding an encoded instruction gives it back, and encoding a decoded request gives the request back, with
every operand byte and every code. -/
def Obligations.DecodeAndEncodeAgree : Prop :=
  (∀ i : Instr, decode (encode i) = i) ∧ ∀ r : Request, encode (decode r) = r

/-- The eight words of the opcode table decode to the operations R39 and R40 give these codes. That such a word stands for a
request with empty operands is the model's reading (log entry 2): the spec gives a request no word form. -/
def Obligations.OpcodeWordsDecode : Prop :=
  decodeTableWord 8 0b000 = some (.xorfold [] []) ∧ decodeTableWord 8 0b001 = some (.chkvalid [] []) ∧
  decodeTableWord 8 0b010 = some (.encode [] []) ∧ decodeTableWord 8 0b011 = some (.bodylen [] []) ∧
  decodeTableWord 8 0b100 = some (.decode [] []) ∧ decodeTableWord 8 0b101 = some (.reserved101 [] []) ∧
  decodeTableWord 8 0b110 = some (.reserved110 [] []) ∧ decodeTableWord 8 0b111 = some (.reserved111 [] [])

/-- R38: the code table: each status has the code R38 gives it, a code names a status exactly when that status has the code,
and 5 to 7 and 12 to 15 name none. R75 to R82: an error of a host procedure is reported with the code of its kind, a codec error
with the block's own, and a return that raises nothing with code 0. -/
def Obligations.StatusCodesNameStatuses : Prop :=
  (∀ sc ∈ [(Status.ok, 0#4), (.invalidPayloadLength, 1#4), (.checksumMismatch, 2#4), (.lengthError, 3#4),
      (.illegalOperation, 4#4), (.transportOpenError, 8#4), (.writeError, 9#4), (.readError, 10#4), (.closeError, 11#4)],
    sc.1.code = sc.2) ∧
  (∀ (e : BlockError) (te : TransportErr) (w : WriteCause) (part : ReadPart) (rc : ReadCause),
    (∀ ec ∈ [(HostError.codec .invalidPayloadLength, 1#4), (.codec .checksumMismatch, 2#4), (.codec .lengthError, 3#4),
        (.codec .illegalOperation, 4#4), (.transportOpenError te, 8#4), (.writeError w, 9#4), (.readError part rc, 10#4),
        (.closeError te, 11#4)],
      ec.1.status.code = ec.2 ∧ (HostOutcome.raised ec.1).status.code = ec.2) ∧
    (HostError.codec e).status = e.status) ∧
  (HostOutcome.ok.status.code = 0#4 ∧ ∀ r : Result, (HostOutcome.result r).status.code = 0#4) ∧
  (∀ (c : BitVec 4) (st : Status), Status.ofCode c = some st ↔ st.code = c) ∧
  ∀ c : BitVec 4, Status.ofCode c = none ↔ (5 ≤ c.toNat ∧ c.toNat ≤ 7) ∨ 12 ≤ c.toNat

/-- R42, R44, R45, R46: byte 5 of a command frame and byte 4 of a response header tell the whole frame's length. -/
def Obligations.FrameLengthIsToldByItsLengthByte : Prop :=
  (∀ p : ByteSeq, p.length ≤ 253 → commandFrameLength (commandFrame p) = some (commandFrame p).length) ∧
  ∀ (v : Variant) (hd : ByteSeq) (n : Byte), bodylenOp v hd = .ok n →
    responseFrameLength v hd = some (hd.length + n.toNat)

/-- R48: every request, printed, reads back as itself: no operation, operand byte or operand boundary is lost. -/
def Obligations.RequestTextReadsBack : Prop :=
  ∀ r : Request, readRequest (requestText r) = .ok r

/-- R48: an omitted `b=` means `b = []`. That however many spaces stand between the fields the same request is read is the
model's choice (log entry 13). -/
def Obligations.OmittedOperandReadsAsEmpty : Prop :=
  ∀ (op : BitVec 3) (a b : ByteSeq) (m n : Nat),
    readRequest (opText op ++ List.replicate (m + 1) ' ' ++ ['a', '='] ++ seqText a) =
      .ok { op := op, a := a, b := [] } ∧
    readRequest (opText op ++ List.replicate (m + 1) ' ' ++ ['a', '='] ++ seqText a ++
        List.replicate (n + 1) ' ' ++ ['b', '='] ++ seqText b) = .ok { op := op, a := a, b := b }

/-! ## Steps, reset and invariants -/

/-- R17, R36: when the next event is a request, the step is exec of the decoded instruction with that event taken off the
schedule. Every other event runs its own function there: construction (R93), a field access (R59 to R62), OPEN, SEND and CLOSE
(R65, R66, R71), an offer of the lock (R72), a local action of the SEND in flight (R66), an answer of the transport (R64), and a
reset of the block, which leaves the state as it is (R92). That one step takes one event is log entry 7. -/
def Obligations.StepRunsTheDecodedRequest : Prop :=
  ∀ (s u : State) (rest : List Input), u = { s with inputs := rest } →
    (∀ r, s.inputs = .request r :: rest → step s = exec (decode r) u) ∧
    (s.inputs = .reset :: rest → step s = .next u) ∧
    (∀ c, s.inputs = .construct c :: rest → step s = u.construct c) ∧
    (∀ k f, s.inputs = .access k f :: rest → step s = u.accessResult k f) ∧
    (∀ link answer, s.inputs = .openLink link answer :: rest → step s = u.openLink link answer) ∧
    (∀ c p, s.inputs = .send c p :: rest → step s = u.startSend c p) ∧
    (∀ k, s.inputs = .grant k :: rest → step s = u.grant k) ∧
    (s.inputs = .proceed :: rest → step s = u.proceed) ∧
    (∀ answer, s.inputs = .writeAnswer answer :: rest → step s = u.writeAnswered answer) ∧
    (∀ answer, s.inputs = .readAnswer answer :: rest → step s = u.readAnswered answer) ∧
    (∀ answer, s.inputs = .closeLink answer :: rest → step s = u.closeLink answer)

/-- The model's own placing of an opcode-table word (log entries 2 and 3): the very next step runs the word's instruction. -/
def Obligations.PresentedWordRunsNext : Prop :=
  ∀ (s : State) (nbits w : Nat), 3 ≤ nbits →
    ∃ i cfg, decodeTableWord nbits w = some i ∧ (s.config = none ∨ s.config = some cfg) ∧
      step (s.withFetchWord nbits w) = exec i { s with config := some cfg }

/-- R91, R99 (as log entry 5 models them): with no event the machine is idle, and a step changes nothing. -/
def Obligations.NoEventNoChange : Prop :=
  ∀ s : State, s.inputs = [] → step s = .next s

/-- R92: a reset of the block clears nothing and sets nothing. That the host's handle, phase and lock and the record of outputs
survive it as well is the model's reading (log entry 16). -/
def Obligations.BlockResetChangesNothing : Prop :=
  ∀ (s : State) (rest : List Input), s.inputs = .reset :: rest → step s = .next { s with inputs := rest }

/-- R24: after construction with `c` the handle is closed, the phase idle, the lock free where SEND_LOCK = true and absent
otherwise, VARIANT the configured value, and no response exists. -/
def Obligations.ConstructionFromResetGivesR24 : Prop :=
  ∀ (c : Configuration) (rest : List Input),
    step { State.reset with inputs := .construct c :: rest } =
      .next { config := some c, handle := .closed, phase := .idle, lock := if c.sendLock then some .free else none,
              waiting := [], results := [], inputs := rest, trace := [] }

/-- The state after reset meets the machine's invariant. -/
def Obligations.ResetMeetsTheInvariant : Prop := State.reset.Inv

/-- R18, R23, R57, R58, R62, R66, R72, R95, R96: every step that answers next keeps the machine's invariant. -/
def Obligations.EveryStepKeepsTheInvariant : Prop :=
  ∀ s t : State, s.Inv → step s = .next t → t.Inv

/-- R72, R95, R96: on every schedule, for as long as the run goes, the transport calls of different exchanges never interleave:
from a write until its SEND returns, the only further calls are its header read and then its body read, no read comes without
its write, and the link is opened and closed between exchanges only. -/
def Obligations.ExchangesNeverInterleave : Prop :=
  ∀ (schedule : List Input) (k : Nat) (t : State),
    Host.Core.run Sys2Proof.core k { State.reset with inputs := schedule } = .next t →
    exchangeAfter t.trace ≠ none

/-- A step only adds to what the machine has shown: a response, once given, stands (R30, R74). That it takes one event off the
schedule, when there is one, is the model's choice (log entry 7), as the record of outputs is (log entry 8). -/
def Obligations.OutputsAreNeverTakenBack : Prop :=
  ∀ s t : State, step s = .next t → s.trace <+: t.trace ∧ t.inputs = s.inputs.tail

/-! ## The host's procedures -/

/-- R65: OPEN on a configured client with a closed handle calls TOpen, and its answer opens the handle or is raised with the
handle still closed; OPEN of an open handle is refused. -/
def Obligations.OpenAcquiresTheTransport : Prop :=
  ∀ (s : State) (cfg : Configuration) (link : LinkConfig) (h : TransportHandle) (e : TransportErr), s.config = some cfg →
    (s.handle = .closed →
      s.openLink link (.ok h) =
        .next { s with handle := .opened h, trace := s.trace ++ [.call (.tOpen link), .openReturned .ok] } ∧
      s.openLink link (.err e) =
        .next { s with trace := s.trace ++
          [.call (.tOpen link), .openReturned (.raised (.transportOpenError e))] }) ∧
    (s.handle ≠ .closed → ∀ answer, s.openLink link answer = .refused .openWhileOpen)

/-- R71: CLOSE with the handle open and no SEND in flight always attempts TClose and closes the handle, and returns OK or
surfaces the collaborator's error; in any other host state it is refused. -/
def Obligations.CloseAlwaysReleasesTheTransport : Prop :=
  ∀ (s : State) (h : TransportHandle) (e : TransportErr) (answer : CloseAnswer),
    (s.handle = .opened h → s.phase = .idle →
      s.closeLink .ok =
        .next { s with handle := .closed, trace := s.trace ++ [.call (.tClose h), .closeReturned .ok] } ∧
      s.closeLink (.err e) =
        .next { s with handle := .closed, trace := s.trace ++
          [.call (.tClose h), .closeReturned (.raised (.closeError e))] }) ∧
    (s.handle = .closed → s.closeLink answer = .refused .closeWhileClosed) ∧
    (s.handle = .opened h → s.phase ≠ .idle → s.closeLink answer = .refused .closeWhileInFlight)

/-- R94, D26 (OPEN and SEND before construction are refused by log entry 4): SEND before construction or with the handle
closed, and OPEN before construction, are refused. -/
def Obligations.HostCallsNeedConstructionAndOpen : Prop :=
  ∀ (s : State) (c : Caller) (p : ByteSeq) (link : LinkConfig) (answer : OpenAnswer),
    (s.config = none → s.startSend c p = .refused .variantNotFixed ∧
      s.openLink link answer = .refused .variantNotFixed) ∧
    (s.config ≠ none → s.handle = .closed → s.startSend c p = .refused .sendWhileClosed)

/-- R66, R72: a SEND on an open, idle client begins at step 1 with the lock, if there is one, held; without a lock a SEND while
another is in flight is refused. -/
def Obligations.SendBeginsOrIsRefused : Prop :=
  ∀ (s : State) (cfg : Configuration) (h : TransportHandle) (c : Caller) (p : ByteSeq),
    s.config = some cfg → s.handle = .opened h →
    (s.lock ≠ some .held → s.phase = .idle →
      s.startSend c p =
        .next { s with phase := .inFlight c h (.encoding p), lock := s.lock.map fun _ => .held }) ∧
    (s.lock = none → s.phase ≠ .idle → s.startSend c p = .refused .sendWhileInFlight)

/-- R72, SEND_LOCK = true: a SEND that finds the lock held waits; while it is held, offering it moves nothing; once it is free
the schedule may give it to any waiting SEND, which then begins. -/
def Obligations.LockedSendsWaitForAnyTurn : Prop :=
  ∀ (s : State) (cfg : Configuration) (h : TransportHandle) (c : Caller) (p : ByteSeq) (k : Nat) (w : WaitingSend),
    s.config = some cfg → s.handle = .opened h →
    (s.lock = some .held →
      s.startSend c p = .next { s with waiting := s.waiting ++ [{ caller := c, payload := p }] } ∧
      s.grant k = .next s) ∧
    (s.lock = some .free → s.phase = .idle → s.waiting[k]? = some w →
      s.grant k =
        .next { s with
          waiting := s.waiting.eraseIdx k
          phase := .inFlight w.caller h (.encoding w.payload)
          lock := some .held })

/-- R72, R87: on every path on which a SEND returns, the lock, if there is one, is released, the return is the last output, and
the handle and the waiting SENDs are untouched. -/
def Obligations.EveryReturnReleasesTheLock : Prop :=
  ∀ (s t : State) (c : Caller) (h : TransportHandle) (stage : SendStep), s.phase = .inFlight c h stage →
    step s = .next t → t.phase = .idle →
    t.lock = s.lock.map (fun _ => .free) ∧ (∃ o, t.trace.getLast? = some (.sendReturned c o)) ∧
    t.handle = s.handle ∧ t.waiting = s.waiting

/-- R66 step 1, R75: an over-long payload ends the SEND with InvalidPayloadLength and no transport call and no block request; a
payload that fits is encoded by the block and its frame handed to TWrite. -/
def Obligations.SendEncodesBeforeItWrites : Prop :=
  ∀ (s : State) (cfg : Configuration) (c : Caller) (h : TransportHandle) (p : ByteSeq),
    s.config = some cfg → s.phase = .inFlight c h (.encoding p) →
    (253 < p.length →
      s.proceed = .next { s with
        phase := .idle
        lock := s.lock.map fun _ => .free
        trace := s.trace ++ [.sendReturned c (.raised (.codec .invalidPayloadLength))] }) ∧
    (p.length ≤ 253 →
      s.proceed = .next { s with
        phase := .inFlight c h (.writing (commandFrame p))
        trace := s.trace ++ [.response { status := .ok, value := some (.frame (commandFrame p)) },
          .call (.tWrite h (commandFrame p))] })

/-- R67, R70, R80: a transport error or a short write ends the SEND with a WriteError that records it, and no read is issued;
after a complete write the header read is issued. -/
def Obligations.ReadFollowsCompleteWriteOnly : Prop :=
  ∀ (s : State) (cfg : Configuration) (c : Caller) (h : TransportHandle) (f : ByteSeq) (e : TransportErr) (n : Nat),
    s.config = some cfg → s.phase = .inFlight c h (.writing f) →
    s.writeAnswered (.err e) = .next { s with
      phase := .idle
      lock := s.lock.map fun _ => .free
      trace := s.trace ++ [.sendReturned c (.raised (.writeError (.transport e)))] } ∧
    (n < f.length → s.writeAnswered (.ok n) = .next { s with
      phase := .idle
      lock := s.lock.map fun _ => .free
      trace := s.trace ++ [.sendReturned c (.raised (.writeError (.short n)))] }) ∧
    s.writeAnswered (.ok f.length) = .next { s with
      phase := .inFlight c h (.readingHeader none)
      trace := s.trace ++ [.call (.tReadExact h (if cfg.variant = .A then 5 else 6))] }

/-- R66 step 3, R68, R81: the header read ends the SEND with a ReadError that records the part and the cause, or hands on
exactly `HDR_LEN(VARIANT)` bytes. -/
def Obligations.HeaderReadIsWholeOrFails : Prop :=
  ∀ (s : State) (cfg : Configuration) (c : Caller) (h : TransportHandle) (e : TransportErr) (hd : ByteSeq),
    s.config = some cfg → s.phase = .inFlight c h (.readingHeader none) →
    s.readAnswered (.err e) = .next { s with
      phase := .idle
      lock := s.lock.map fun _ => .free
      trace := s.trace ++ [.sendReturned c (.raised (.readError .header (.transport e)))] } ∧
    s.readAnswered .eof = .next { s with
      phase := .idle
      lock := s.lock.map fun _ => .free
      trace := s.trace ++ [.sendReturned c (.raised (.readError .header .eof))] } ∧
    (hd.length = (if cfg.variant = .A then 5 else 6) →
      s.readAnswered (.ok hd) = .next { s with phase := .inFlight c h (.readingHeader (some hd)) })

/-- R66 step 4 and corner case (2): BODYLEN is asked; its LengthError ends the SEND with no body read; a length of 0 issues no
read, and any other length issues one of exactly that many bytes. -/
def Obligations.BodyReadFollowsTheDerivedLength : Prop :=
  ∀ (s : State) (cfg : Configuration) (c : Caller) (h : TransportHandle) (hd : ByteSeq) (n : Byte),
    s.config = some cfg → s.phase = .inFlight c h (.readingHeader (some hd)) →
    (bodylenOp cfg.variant hd = .error .lengthError →
      s.proceed = .next { s with
        phase := .idle
        lock := s.lock.map fun _ => .free
        trace := s.trace ++ [.response { status := .lengthError, value := none },
          .sendReturned c (.raised (.codec .lengthError))] }) ∧
    (bodylenOp cfg.variant hd = .ok n → n = 0x00#8 →
      s.proceed = .next { s with
        phase := .inFlight c h (.readingBody hd 0)
        trace := s.trace ++ [.response { status := .ok, value := some (.byte n) }] }) ∧
    (bodylenOp cfg.variant hd = .ok n → n ≠ 0x00#8 →
      s.proceed = .next { s with
        phase := .inFlight c h (.readingBody hd n.toNat)
        trace := s.trace ++ [.response { status := .ok, value := some (.byte n) },
          .call (.tReadExact h n.toNat)] })

/-- R66 step 4, R68, R81: the body read ends the SEND with a ReadError of the body, or hands on exactly `n` bytes; a body of no
bytes is handed on with no read. -/
def Obligations.BodyReadIsWholeOrFails : Prop :=
  ∀ (s : State) (cfg : Configuration) (c : Caller) (h : TransportHandle) (hd bd : ByteSeq) (n : Nat) (e : TransportErr),
    s.config = some cfg → s.phase = .inFlight c h (.readingBody hd n) →
    (n = 0 → s.proceed = .next { s with phase := .inFlight c h (.validating hd []) }) ∧
    (n ≠ 0 →
      s.readAnswered (.err e) = .next { s with
        phase := .idle
        lock := s.lock.map fun _ => .free
        trace := s.trace ++ [.sendReturned c (.raised (.readError .body (.transport e)))] } ∧
      s.readAnswered .eof = .next { s with
        phase := .idle
        lock := s.lock.map fun _ => .free
        trace := s.trace ++ [.sendReturned c (.raised (.readError .body .eof))] } ∧
      (bd.length = n → s.readAnswered (.ok bd) = .next { s with phase := .inFlight c h (.validating hd bd) }))

/-- R66 step 5, R69, R76: DECODE is asked once: SEND returns its Result, which the caller then holds, or raises
ChecksumMismatch with no Result and no retry. -/
def Obligations.SendReturnsTheDecodedResult : Prop :=
  ∀ (s : State) (cfg : Configuration) (c : Caller) (h : TransportHandle) (hd bd : ByteSeq),
    s.config = some cfg → s.phase = .inFlight c h (.validating hd bd) →
    hd.length = (if cfg.variant = .A then 5 else 6) → bd.length ≤ 255 →
    s.proceed = .next
      (if xorfold (hd ++ bd) = 0x00#8 then
        { s with
          phase := .idle
          lock := s.lock.map fun _ => .free
          results := s.results ++ [{ variant := cfg.variant, frame := hd ++ bd }]
          trace := s.trace ++
            [.response { status := .ok, value := some (.result { variant := cfg.variant, frame := hd ++ bd }) },
             .sendReturned c (.result { variant := cfg.variant, frame := hd ++ bd })] }
       else
        { s with
          phase := .idle
          lock := s.lock.map fun _ => .free
          trace := s.trace ++ [.response { status := .checksumMismatch, value := none },
            .sendReturned c (.raised (.codec .checksumMismatch))] })

/-- R66, whole: on an open, idle client, when the transport takes the whole frame and answers with a header and the body its
length byte tells, whose checksum holds, SEND makes one write and one or two reads and returns the Result of exactly these
bytes, and the client is idle again with its lock free. -/
def Obligations.WholeExchangeReturnsItsResult : Prop :=
  ∀ (s : State) (cfg : Configuration) (h : TransportHandle) (c : Caller) (p hd bd : ByteSeq) (n : Byte)
    (rest : List Input),
    s.config = some cfg → s.handle = .opened h → s.phase = .idle → s.lock ≠ some .held →
    p.length ≤ 253 → bodylenOp cfg.variant hd = .ok n → bd.length = n.toNat → xorfold (hd ++ bd) = 0x00#8 →
    s.inputs = [.send c p, .proceed, .writeAnswer (.ok (p.length + 8)), .readAnswer (.ok hd), .proceed,
      (if n = 0x00#8 then .proceed else .readAnswer (.ok bd)), .proceed] ++ rest →
    Host.Core.run Sys2Proof.core 7 s = .next { s with
      lock := s.lock.map fun _ => .free
      inputs := rest
      results := s.results ++ [{ variant := cfg.variant, frame := hd ++ bd }]
      trace := s.trace ++
        [.response { status := .ok, value := some (.frame (commandFrame p)) }, .call (.tWrite h (commandFrame p)),
         .call (.tReadExact h (if cfg.variant = .A then 5 else 6)),
         .response { status := .ok, value := some (.byte n) }] ++
        (if n = 0x00#8 then [] else [.call (.tReadExact h n.toNat)]) ++
        [.response { status := .ok, value := some (.result { variant := cfg.variant, frame := hd ++ bd }) },
         .sendReturned c (.result { variant := cfg.variant, frame := hd ++ bd })] }

/-- R96, R72: while a SEND is in flight, every step leaves it in flight, for the same caller on the same handle, or returns it,
and no second SEND starts, of that caller or another: where the next step is at step 1 (encoding), the phase has not moved. -/
def Obligations.OneExchangeAtATime : Prop :=
  ∀ (s t : State) (c : Caller) (h : TransportHandle) (stage : SendStep),
    s.phase = .inFlight c h stage → step s = .next t →
    t.phase = .idle ∨
    ∃ stage', t.phase = .inFlight c h stage' ∧ ((∀ p, stage' ≠ .encoding p) ∨ t.phase = s.phase)

/-- R68, R99, R73: a SEND whose write or read is outstanding moves on no step but the transport's answer: without one it blocks
for ever, and there is no timeout. -/
def Obligations.SendBlocksUntilTheTransportAnswers : Prop :=
  ∀ (s t : State) (c : Caller) (h : TransportHandle) (stage : SendStep), s.inFlightOk →
    s.phase = .inFlight c h stage →
    ((∃ f, stage = .writing f) ∨ stage = .readingHeader none ∨ ∃ hd n, stage = .readingBody hd n ∧ n ≠ 0) →
    (∀ a, s.inputs.head? ≠ some (.writeAnswer a)) → (∀ a, s.inputs.head? ≠ some (.readAnswer a)) →
    step s = .next t → t.phase = s.phase ∧ transportCalls t.trace = transportCalls s.trace

/-- R64 (the stop itself is the model's, log entry 6): an answer outside the transport's contract (a write of more bytes than
the frame has, a header or body read of another number of bytes than asked), or with no such call outstanding (whatever the
SEND in flight is at, or with none in flight), stops the run by name. -/
def Obligations.AnswersOutsideTheContractFault : Prop :=
  ∀ (s : State) (cfg : Configuration) (c : Caller) (h : TransportHandle) (f hd bytes : ByteSeq) (n : Nat)
    (stage : SendStep) (w : WriteAnswer) (a : ReadAnswer), s.config = some cfg →
    (s.phase = .inFlight c h (.writing f) → f.length < n →
      s.writeAnswered (.ok n) = .fault .answerOutsideContract) ∧
    (s.phase = .inFlight c h (.readingHeader none) → bytes.length ≠ (if cfg.variant = .A then 5 else 6) →
      s.readAnswered (.ok bytes) = .fault .answerOutsideContract) ∧
    (s.phase = .inFlight c h (.readingBody hd n) → n ≠ 0 → bytes.length ≠ n →
      s.readAnswered (.ok bytes) = .fault .answerOutsideContract) ∧
    (s.phase = .inFlight c h stage → (∀ f', stage ≠ .writing f') →
      s.writeAnswered w = .fault .answerWithoutCall) ∧
    (s.phase = .inFlight c h stage → stage ≠ .readingHeader none → (∀ hd' n', n' ≠ 0 → stage ≠ .readingBody hd' n') →
      s.readAnswered a = .fault .answerWithoutCall) ∧
    (s.phase = .idle → s.writeAnswered w = .fault .answerWithoutCall ∧ s.readAnswered a = .fault .answerWithoutCall)

/-- R89: separate clients share no state: a client's step leaves every other client as it was, and steps of two different
clients give the same system in either order. The one exception is a handle passed on: client `k` opens the very handle that
client `j`'s step gave up, which it could not do first, since each owns its handle exclusively (log entry 18). -/
def Obligations.SeparateClientsAreIndependent : Prop :=
  (∀ (y z : System) (j k : Nat), System.stepClient y k = .next z → j ≠ k → z[j]? = y[j]?) ∧
  ∀ (y z w : System) (j k : Nat), j ≠ k → System.stepClient y j = .next z → System.stepClient z k = .next w →
    (∃ z', System.stepClient y k = .next z' ∧ System.stepClient z' j = .next w) ∨
    ∃ (h : TransportHandle) (s t : State), y[j]? = some s ∧ s.handle = .opened h ∧ w[k]? = some t ∧ t.handle = .opened h

/-- R89: each client owns its transport handle exclusively. No client's step makes two clients own one handle; a step that
clashes with no other client's handle is that client's own step; one that would take a handle another client has open stops by
name (that stop is the model's, log entry 18). -/
def Obligations.ClientsOwnTheirHandlesExclusively : Prop :=
  (∀ (y z : System) (k : Nat), System.Exclusive y → System.stepClient y k = .next z → System.Exclusive z) ∧
  ∀ (y : System) (k : Nat) (s t : State), y[k]? = some s → step s = .next t →
    ((∀ (j : Nat) (u : State) (h : TransportHandle), j ≠ k → y[j]? = some u → t.handle = .opened h →
        u.handle ≠ .opened h) →
      System.stepClient y k = .next (y.set k t)) ∧
    (∀ (j : Nat) (u : State) (h : TransportHandle), j ≠ k → y[j]? = some u → t.handle = .opened h →
      u.handle = .opened h → System.stepClient y k = .fault .handleOwnedByAnother)
end

