-- ==== Sys2Proof/Laws/State.lean ====
section
/-! SUPPORT. One lemma per field per update of the state, so that no proof unfolds a record update. -/

namespace Sys2Proof.Machine.State

/-! ## emit -/

@[simp] theorem emit_config (o : Output) (s : State) :
    (s.emit o).config = s.config := rfl

@[simp] theorem emit_handle (o : Output) (s : State) :
    (s.emit o).handle = s.handle := rfl

@[simp] theorem emit_phase (o : Output) (s : State) :
    (s.emit o).phase = s.phase := rfl

@[simp] theorem emit_lock (o : Output) (s : State) :
    (s.emit o).lock = s.lock := rfl

@[simp] theorem emit_waiting (o : Output) (s : State) :
    (s.emit o).waiting = s.waiting := rfl

@[simp] theorem emit_results (o : Output) (s : State) :
    (s.emit o).results = s.results := rfl

@[simp] theorem emit_inputs (o : Output) (s : State) :
    (s.emit o).inputs = s.inputs := rfl

@[simp] theorem emit_trace (o : Output) (s : State) :
    (s.emit o).trace = s.trace ++ [o] := rfl

/-! ## respond -/

@[simp] theorem respond_config (r : Response) (s : State) :
    (s.respond r).config = s.config := rfl

@[simp] theorem respond_handle (r : Response) (s : State) :
    (s.respond r).handle = s.handle := rfl

@[simp] theorem respond_phase (r : Response) (s : State) :
    (s.respond r).phase = s.phase := rfl

@[simp] theorem respond_lock (r : Response) (s : State) :
    (s.respond r).lock = s.lock := rfl

@[simp] theorem respond_waiting (r : Response) (s : State) :
    (s.respond r).waiting = s.waiting := rfl

@[simp] theorem respond_results (r : Response) (s : State) :
    (s.respond r).results = s.results ++ r.handedResults := rfl

@[simp] theorem respond_inputs (r : Response) (s : State) :
    (s.respond r).inputs = s.inputs := rfl

@[simp] theorem respond_trace (r : Response) (s : State) :
    (s.respond r).trace = s.trace ++ [.response r] := rfl

/-! ## toStep -/

@[simp] theorem toStep_config (c : Caller) (h : TransportHandle) (step : SendStep) (s : State) :
    (s.toStep c h step).config = s.config := rfl

@[simp] theorem toStep_handle (c : Caller) (h : TransportHandle) (step : SendStep) (s : State) :
    (s.toStep c h step).handle = s.handle := rfl

@[simp] theorem toStep_phase (c : Caller) (h : TransportHandle) (step : SendStep) (s : State) :
    (s.toStep c h step).phase = .inFlight c h step := rfl

@[simp] theorem toStep_lock (c : Caller) (h : TransportHandle) (step : SendStep) (s : State) :
    (s.toStep c h step).lock = s.lock := rfl

@[simp] theorem toStep_waiting (c : Caller) (h : TransportHandle) (step : SendStep) (s : State) :
    (s.toStep c h step).waiting = s.waiting := rfl

@[simp] theorem toStep_results (c : Caller) (h : TransportHandle) (step : SendStep) (s : State) :
    (s.toStep c h step).results = s.results := rfl

@[simp] theorem toStep_inputs (c : Caller) (h : TransportHandle) (step : SendStep) (s : State) :
    (s.toStep c h step).inputs = s.inputs := rfl

@[simp] theorem toStep_trace (c : Caller) (h : TransportHandle) (step : SendStep) (s : State) :
    (s.toStep c h step).trace = s.trace := rfl

/-! ## beginSend -/

@[simp] theorem beginSend_config (c : Caller) (h : TransportHandle) (p : ByteSeq) (s : State) :
    (s.beginSend c h p).config = s.config := rfl

@[simp] theorem beginSend_handle (c : Caller) (h : TransportHandle) (p : ByteSeq) (s : State) :
    (s.beginSend c h p).handle = s.handle := rfl

@[simp] theorem beginSend_phase (c : Caller) (h : TransportHandle) (p : ByteSeq) (s : State) :
    (s.beginSend c h p).phase = .inFlight c h (.encoding p) := rfl

@[simp] theorem beginSend_lock (c : Caller) (h : TransportHandle) (p : ByteSeq) (s : State) :
    (s.beginSend c h p).lock = s.lock.map fun _ => .held := rfl

@[simp] theorem beginSend_waiting (c : Caller) (h : TransportHandle) (p : ByteSeq) (s : State) :
    (s.beginSend c h p).waiting = s.waiting := rfl

@[simp] theorem beginSend_results (c : Caller) (h : TransportHandle) (p : ByteSeq) (s : State) :
    (s.beginSend c h p).results = s.results := rfl

@[simp] theorem beginSend_inputs (c : Caller) (h : TransportHandle) (p : ByteSeq) (s : State) :
    (s.beginSend c h p).inputs = s.inputs := rfl

@[simp] theorem beginSend_trace (c : Caller) (h : TransportHandle) (p : ByteSeq) (s : State) :
    (s.beginSend c h p).trace = s.trace := rfl

/-! ## sendReturn -/

@[simp] theorem sendReturn_config (c : Caller) (o : HostOutcome) (s : State) :
    (s.sendReturn c o).config = s.config := rfl

@[simp] theorem sendReturn_handle (c : Caller) (o : HostOutcome) (s : State) :
    (s.sendReturn c o).handle = s.handle := rfl

@[simp] theorem sendReturn_phase (c : Caller) (o : HostOutcome) (s : State) :
    (s.sendReturn c o).phase = .idle := rfl

@[simp] theorem sendReturn_lock (c : Caller) (o : HostOutcome) (s : State) :
    (s.sendReturn c o).lock = s.lock.map fun _ => .free := rfl

@[simp] theorem sendReturn_waiting (c : Caller) (o : HostOutcome) (s : State) :
    (s.sendReturn c o).waiting = s.waiting := rfl

@[simp] theorem sendReturn_results (c : Caller) (o : HostOutcome) (s : State) :
    (s.sendReturn c o).results = s.results := rfl

@[simp] theorem sendReturn_inputs (c : Caller) (o : HostOutcome) (s : State) :
    (s.sendReturn c o).inputs = s.inputs := rfl

@[simp] theorem sendReturn_trace (c : Caller) (o : HostOutcome) (s : State) :
    (s.sendReturn c o).trace = s.trace ++ [.sendReturned c o] := rfl

/-! ## dropInput -/

@[simp] theorem dropInput_config (s : State) :
    (s.dropInput).config = s.config := rfl

@[simp] theorem dropInput_handle (s : State) :
    (s.dropInput).handle = s.handle := rfl

@[simp] theorem dropInput_phase (s : State) :
    (s.dropInput).phase = s.phase := rfl

@[simp] theorem dropInput_lock (s : State) :
    (s.dropInput).lock = s.lock := rfl

@[simp] theorem dropInput_waiting (s : State) :
    (s.dropInput).waiting = s.waiting := rfl

@[simp] theorem dropInput_results (s : State) :
    (s.dropInput).results = s.results := rfl

@[simp] theorem dropInput_inputs (s : State) :
    (s.dropInput).inputs = s.inputs.tail := rfl

@[simp] theorem dropInput_trace (s : State) :
    (s.dropInput).trace = s.trace := rfl

/-! ## sendRaise is sendReturn -/

@[simp] theorem sendRaise_eq (c : Caller) (e : HostError) (s : State) : s.sendRaise c e = s.sendReturn c (.raised e) := rfl

end Sys2Proof.Machine.State
end

