-- ==== Sys2Proof/Laws/Ops.lean ====
section
/-! SUPPORT. What the shared operations do, each said once: the XOR-fold and the checksum comparison, how a response is
built, and when a block transaction answers. -/

namespace Sys2Proof.Machine

/-! ## The XOR-fold -/

@[simp] theorem xorfold_nil : xorfold [] = 0x00#8 := rfl

@[simp] theorem xorfold_concat (s : ByteSeq) (c : Byte) : xorfold (s ++ [c]) = xorfold s ^^^ c := by
  simp [xorfold]

theorem foldl_xor_start (s : ByteSeq) (x : Byte) :
    s.foldl (fun acc c => acc ^^^ c) x = x ^^^ xorfold s := by
  induction s generalizing x with
  | nil => simp
  | cons c s ih =>
    have h : xorfold (c :: s) = c ^^^ xorfold s := by
      show List.foldl _ (0x00#8 ^^^ c) s = _
      rw [ih, BitVec.zero_xor]
    rw [List.foldl_cons, ih, h, BitVec.xor_assoc]

theorem xorfold_cons (c : Byte) (s : ByteSeq) : xorfold (c :: s) = c ^^^ xorfold s := by
  show List.foldl _ (0x00#8 ^^^ c) s = _
  rw [foldl_xor_start, BitVec.zero_xor]

theorem xorfold_append (s t : ByteSeq) : xorfold (s ++ t) = xorfold s ^^^ xorfold t := by
  show List.foldl _ _ _ = _
  rw [List.foldl_append]
  exact foldl_xor_start t _

theorem xor_eq_zero_iff (x y : Byte) : x ^^^ y = 0#8 ↔ x = y := by
  constructor
  · intro h
    have h2 : x ^^^ y ^^^ y = 0#8 ^^^ y := by rw [h]
    rwa [BitVec.xor_assoc, BitVec.xor_self, BitVec.xor_zero, BitVec.zero_xor] at h2
  · rintro rfl
    exact BitVec.xor_self

/-! ## Slices and the checksum comparison -/

@[simp] theorem slice_zero (s : ByteSeq) (n : Nat) : slice s 0 n = s.take n := by simp [slice]

@[simp] theorem slice_to_end (s : ByteSeq) (n : Nat) : slice s n s.length = s.drop n := by simp [slice]

@[simp] theorem checksumHolds_nil : checksumHolds [] = false := by decide

theorem checksumHolds_concat (s : ByteSeq) (c : Byte) :
    checksumHolds (s ++ [c]) = true ↔ c = xorfold s := by
  simp [checksumHolds]

theorem checksumHolds_iff (f : ByteSeq) : checksumHolds f = true ↔ f ≠ [] ∧ xorfold f = 0#8 := by
  rcases List.eq_nil_or_concat f with rfl | ⟨s, c, rfl⟩
  · simp
  · rw [List.concat_eq_append, checksumHolds_concat, xorfold_concat, xor_eq_zero_iff]
    constructor
    · intro h
      exact ⟨by simp, h.symm⟩
    · intro h
      exact h.2.symm

/-! ## The operand-length limits of R41 -/

@[simp] theorem xorfoldFits_iff (a : ByteSeq) : xorfoldFits a = true ↔ a.length ≤ Config.maxOperand := by
  simp [xorfoldFits]

@[simp] theorem chkvalidFits_iff (a : ByteSeq) :
    chkvalidFits a = true ↔ 1 ≤ a.length ∧ a.length ≤ Config.maxOperand := by
  simp [chkvalidFits]

@[simp] theorem encodeFits_iff (a : ByteSeq) : encodeFits a = true ↔ a.length ≤ Config.maxPayload := by
  simp [encodeFits]

@[simp] theorem headerFits_iff (v : Variant) (a : ByteSeq) : headerFits v a = true ↔ a.length = hdrLen v := by
  simp [headerFits]

@[simp] theorem bodyFits_iff (b : ByteSeq) : bodyFits b = true ↔ b.length ≤ Config.maxBodyOperand := by
  simp [bodyFits]

/-! ## Responses -/

@[simp] theorem ofOutcome_ok {α : Type} (wrap : α → Option Value) (v : α) :
    Response.ofOutcome wrap (.ok v) = { status := .ok, value := wrap v } := rfl

@[simp] theorem ofOutcome_error {α : Type} (wrap : α → Option Value) (e : BlockError) :
    Response.ofOutcome wrap (.error e) = { status := e.status, value := none } := rfl

@[simp] theorem raise_eq (e : BlockError) : Response.raise e = { status := e.status, value := none } := rfl

@[simp] theorem handedResults_none (st : Status) : ({ status := st, value := none } : Response).handedResults = [] := rfl

@[simp] theorem handedResults_byte (st : Status) (b : Byte) :
    ({ status := st, value := some (.byte b) } : Response).handedResults = [] := rfl

@[simp] theorem handedResults_frame (st : Status) (f : ByteSeq) :
    ({ status := st, value := some (.frame f) } : Response).handedResults = [] := rfl

@[simp] theorem handedResults_result (st : Status) (r : Result) :
    ({ status := st, value := some (.result r) } : Response).handedResults = [r] := rfl

/-! ## Configuration and transactions -/

theorem withConfig_some {s : State} {c : Configuration} (h : s.config = some c) (k : Configuration → StepOutcome) :
    s.withConfig k = k c := by simp [State.withConfig, h]

theorem withConfig_none {s : State} (h : s.config = none) (k : Configuration → StepOutcome) :
    s.withConfig k = .refused .variantNotFixed := by simp [State.withConfig, h]

/-- `withConfig` answers next only on a configured client. -/
theorem withConfig_next {s t : State} {k : Configuration → StepOutcome} (h : s.withConfig k = .next t) :
    ∃ c, s.config = some c ∧ k c = .next t := by
  cases hc : s.config with
  | none => simp [State.withConfig, hc] at h
  | some c => exact ⟨c, rfl, by simpa [State.withConfig, hc] using h⟩

theorem transact_some {s : State} {c : Configuration} (h : s.config = some c) (answer : Variant → Response) :
    s.transact answer = .next (s.respond (answer c.variant)) := withConfig_some h _

theorem transact_none {s : State} (h : s.config = none) (answer : Variant → Response) :
    s.transact answer = .refused .variantNotFixed := withConfig_none h _

/-- A transaction that answers next emits its one response and changes nothing else but the Results it hands over. -/
theorem transact_next {s t : State} {answer : Variant → Response} (h : s.transact answer = .next t) :
    ∃ c, s.config = some c ∧ t = s.respond (answer c.variant) := by
  obtain ⟨c, hc, hk⟩ := withConfig_next h
  exact ⟨c, hc, by cases hk; rfl⟩

end Sys2Proof.Machine
end

