-- ==== Sys2Proof/Laws/Exec.lean ====
section
/-! SUPPORT. The block as one function of VARIANT and the instruction (R30), and what each operation's outcome can be. -/

namespace Sys2Proof.Machine

/-- The response the block gives an instruction in a variant. -/
def blockAnswer (v : Variant) : Instr → Response
  | .xorfold a _ => xorfoldResponse a
  | .chkvalid a _ => chkvalidResponse a
  | .encode a _ => encodeResponse a
  | .bodylen a _ => bodylenResponse v a
  | .decode a b => decodeResponse v a b
  | .reserved101 _ _ => reservedResponse
  | .reserved110 _ _ => reservedResponse
  | .reserved111 _ _ => reservedResponse

theorem exec_eq (i : Instr) (s : State) : exec i s = s.transact fun v => blockAnswer v i := by
  cases i <;> rfl

theorem exec_some {s : State} {c : Configuration} (h : s.config = some c) (i : Instr) :
    exec i s = .next (s.respond (blockAnswer c.variant i)) := by
  rw [exec_eq, transact_some h]

theorem exec_none {s : State} (h : s.config = none) (i : Instr) : exec i s = .refused .variantNotFixed := by
  rw [exec_eq, transact_none h]

theorem exec_next {s t : State} {i : Instr} (h : exec i s = .next t) :
    ∃ c, s.config = some c ∧ t = s.respond (blockAnswer c.variant i) := by
  rw [exec_eq] at h
  exact transact_next h

/-- DECODE hands over a Result exactly when the lengths fit and the checksum holds. -/
theorem decodeOp_ok {v : Variant} {a b : ByteSeq} {r : Result} (h : decodeOp v a b = .ok r) :
    a.length = hdrLen v ∧ b.length ≤ Config.maxBodyOperand ∧ checksumHolds (a ++ b) = true ∧
      r = { variant := v, frame := a ++ b } := by
  by_cases hl : (headerFits v a && bodyFits b) = true
  · by_cases hc : checksumHolds (a ++ b) = true
    · simp only [decodeOp, hl, hc, if_true, Except.ok.injEq] at h
      simp only [Bool.and_eq_true, headerFits_iff, bodyFits_iff] at hl
      exact ⟨hl.1, hl.2, hc, h.symm⟩
    · simp [decodeOp, hl, hc] at h
  · simp [decodeOp, hl] at h

/-- A response of the block hands over a Result only for a DECODE that succeeded. -/
theorem handed_by_decode {v : Variant} {i : Instr} {r : Result} (h : r ∈ (blockAnswer v i).handedResults) :
    ∃ a b, i = .decode a b ∧ decodeOp v a b = .ok r := by
  cases i with
  | decode a b =>
    refine ⟨a, b, rfl, ?_⟩
    simp only [blockAnswer, decodeResponse] at h
    cases hd : decodeOp v a b with
    | ok x => simp [hd] at h; rw [h]
    | error e => simp [hd] at h
  | xorfold a b => simp only [blockAnswer, xorfoldResponse] at h; cases hx : xorfoldOp a <;> simp [hx] at h
  | chkvalid a b => simp only [blockAnswer, chkvalidResponse] at h; cases hx : chkvalidOp a <;> simp [hx] at h
  | encode a b => simp only [blockAnswer, encodeResponse] at h; cases hx : encodeOp a <;> simp [hx] at h
  | bodylen a b => simp only [blockAnswer, bodylenResponse] at h; cases hx : bodylenOp v a <;> simp [hx] at h
  | reserved101 a b => simp [blockAnswer, reservedResponse] at h
  | reserved110 a b => simp [blockAnswer, reservedResponse] at h
  | reserved111 a b => simp [blockAnswer, reservedResponse] at h

end Sys2Proof.Machine
end

