-- ==== Sys2Proof/Laws/Client.lean ====
section
/-! SUPPORT. What each host procedure, schedule event and transport answer can do when it answers next, said once each. -/

namespace Sys2Proof.Machine.State

theorem construct_next {c : Configuration} {s t : State} (h : s.construct c = .next t) :
    s.config = none ∧ t = { s with config := some c, lock := if c.sendLock then some .free else none } := by
  unfold construct at h
  split at h
  · next hc => exact ⟨hc, by cases h; rfl⟩
  · cases h

theorem openLink_next {cfg : LinkConfig} {answer : OpenAnswer} {s t : State} (h : s.openLink cfg answer = .next t) :
    (∃ c, s.config = some c) ∧ s.handle = .closed ∧ t = (s.emit (.call (.tOpen cfg))).openAnswered answer := by
  obtain ⟨c, hc, hk⟩ := withConfig_next h
  split at hk
  · cases hk
  · next hh => exact ⟨⟨c, hc⟩, hh, by cases hk; rfl⟩

theorem closeLink_next {answer : CloseAnswer} {s t : State} (h : s.closeLink answer = .next t) :
    ∃ hd, s.handle = .opened hd ∧ s.phase = .idle ∧
      t = { s with handle := .closed, trace := s.trace ++ [.call (.tClose hd), .closeReturned (closeOutcome answer)] } := by
  unfold closeLink at h
  split at h
  · cases h
  · next hd hh =>
    split at h
    · cases h
    · next hp => exact ⟨hd, hh, hp, by cases h; rfl⟩

/-- A SEND that starts either waits for the held lock or begins. -/
theorem startSend_next {c : Caller} {p : ByteSeq} {s t : State} (h : s.startSend c p = .next t) :
    ∃ cfg hd, s.config = some cfg ∧ s.handle = .opened hd ∧
      ((s.lock = some .held ∧ t = { s with waiting := s.waiting ++ [{ caller := c, payload := p }] }) ∨
       (s.lock ≠ some .held ∧ s.phase = .idle ∧ t = s.beginSend c hd p)) := by
  obtain ⟨cfg, hc, hk⟩ := withConfig_next h
  cases hh : s.handle with
  | closed => simp [hh] at hk
  | opened hd =>
    refine ⟨cfg, hd, hc, rfl, ?_⟩
    cases hp : s.phase with
    | idle =>
      rcases hl : s.lock with _ | _ | _ <;> simp [hh, hl, hp] at hk <;> simp [hk.symm]
    | inFlight c' h' st' =>
      rcases hl : s.lock with _ | _ | _ <;> simp [hh, hl, hp] at hk
      simp [hk.symm]

theorem grant_next {k : Nat} {s t : State} (h : s.grant k = .next t) :
    t = s ∨ ∃ w, s.lock = some .free ∧ s.waiting[k]? = some w ∧
      startSend w.caller w.payload { s with waiting := s.waiting.eraseIdx k } = .next t := by
  unfold grant at h
  split at h
  · next hl =>
    split at h
    · next w hw => exact .inr ⟨w, hl, hw, h⟩
    · exact .inl (by cases h; rfl)
  · exact .inl (by cases h; rfl)
  · exact .inl (by cases h; rfl)

theorem proceed_next {s t : State} (h : s.proceed = .next t) :
    (s.phase = .idle ∧ t = s) ∨ ∃ c hd step cfg, s.phase = .inFlight c hd step ∧ s.config = some cfg ∧
      t = s.advance cfg.variant c hd step := by
  unfold proceed at h
  split at h
  · next hp => exact .inl ⟨hp, by cases h; rfl⟩
  · next c hd step hp =>
    obtain ⟨cfg, hc, hk⟩ := withConfig_next h
    exact .inr ⟨c, hd, step, cfg, hp, hc, by cases hk; rfl⟩

/-- TWrite's answer ends the SEND with a WriteError, or the write was complete and the header read is issued. -/
theorem writeAnswered_next {answer : WriteAnswer} {s t : State} (h : s.writeAnswered answer = .next t) :
    ∃ c hd f, s.phase = .inFlight c hd (.writing f) ∧
      ((∃ cause, t = s.sendReturn c (.raised (.writeError cause))) ∨
       (∃ cfg, s.config = some cfg ∧ answer = .ok f.length ∧
          t = (s.toStep c hd (.readingHeader none)).emit (.call (.tReadExact hd (hdrLen cfg.variant))))) := by
  unfold writeAnswered at h
  split at h
  · next c hd f hp =>
    refine ⟨c, hd, f, hp, ?_⟩
    split at h
    · exact .inl ⟨_, by cases h; rfl⟩
    · next n =>
      split at h
      · exact .inl ⟨_, by cases h; rfl⟩
      · split at h
        · next hn =>
          obtain ⟨cfg, hc, hk⟩ := withConfig_next h
          exact .inr ⟨cfg, hc, by rw [hn], by cases hk; rfl⟩
        · cases h
  · cases h

theorem readCompleted_next {c : Caller} {hd : TransportHandle} {part : ReadPart} {n : Nat} {next : ByteSeq → SendStep}
    {answer : ReadAnswer} {s t : State} (h : s.readCompleted c hd part n next answer = .next t) :
    (∃ cause, t = s.sendReturn c (.raised (.readError part cause))) ∨
    (∃ bytes, answer = .ok bytes ∧ bytes.length = n ∧ t = s.toStep c hd (next bytes)) := by
  unfold readCompleted at h
  split at h
  · exact .inl ⟨_, by cases h; rfl⟩
  · exact .inl ⟨_, by cases h; rfl⟩
  · next bytes =>
    split at h
    · next hn => exact .inr ⟨bytes, rfl, hn, by cases h; rfl⟩
    · cases h

/-- TReadExact's answer ends the SEND with a ReadError, or hands the header or the body on to the next action. -/
theorem readAnswered_next {answer : ReadAnswer} {s t : State} (h : s.readAnswered answer = .next t) :
    ∃ c hd step, s.phase = .inFlight c hd step ∧
      ((∃ part cause, t = s.sendReturn c (.raised (.readError part cause))) ∨
       (∃ cfg bytes, step = .readingHeader none ∧ s.config = some cfg ∧ answer = .ok bytes ∧
          bytes.length = hdrLen cfg.variant ∧ t = s.toStep c hd (.readingHeader (some bytes))) ∨
       (∃ header n bytes, step = .readingBody header n ∧ n ≠ 0 ∧ answer = .ok bytes ∧ bytes.length = n ∧
          t = s.toStep c hd (.validating header bytes))) := by
  unfold readAnswered at h
  split at h
  · next c hd hp =>
    refine ⟨c, hd, _, hp, ?_⟩
    obtain ⟨cfg, hc, hk⟩ := withConfig_next h
    rcases readCompleted_next hk with ⟨cause, ht⟩ | ⟨bytes, ha, hn, ht⟩
    · exact .inl ⟨_, cause, ht⟩
    · exact .inr (.inl ⟨cfg, bytes, rfl, hc, ha, hn, ht⟩)
  · next c hd header n hp =>
    refine ⟨c, hd, _, hp, ?_⟩
    split at h
    · cases h
    · next hn =>
      rcases readCompleted_next h with ⟨cause, ht⟩ | ⟨bytes, ha, hb, ht⟩
      · exact .inl ⟨_, cause, ht⟩
      · exact .inr (.inr ⟨header, n, bytes, rfl, hn, ha, hb, ht⟩)
  · cases h

theorem accessResult_next {k : Nat} {f : Field} {s t : State} (h : s.accessResult k f = .next t) :
    ∃ r v, s.results[k]? = some r ∧ r.read f = .ok v ∧ t = s.emit (.field k f v) := by
  unfold accessResult at h
  split at h
  · cases h
  · next r hr =>
    split at h
    · next v hv => exact ⟨r, v, hr, hv, by cases h; rfl⟩
    · cases h

/-! ## SEND's own actions -/

/-- Step 1 fails without a block request, or asks the block once and issues TWrite. -/
theorem encodeStep_cases (c : Caller) (hd : TransportHandle) (p : ByteSeq) (s : State) :
    (Config.maxPayload < p.length ∧ s.encodeStep c hd p = s.sendReturn c (.raised (.codec .invalidPayloadLength))) ∨
    (p.length ≤ Config.maxPayload ∧
      s.encodeStep c hd p =
        ((s.respond (encodeResponse p)).toStep c hd (.writing (commandFrame p))).emit
          (.call (.tWrite hd (commandFrame p)))) := by
  by_cases hp : p.length ≤ Config.maxPayload
  · refine .inr ⟨hp, ?_⟩
    have ho : encodeOp p = .ok (commandFrame p) := by simp [encodeOp, hp]
    simp only [encodeStep, hp, if_true, ho]
  · exact .inl ⟨by omega, by simp [encodeStep, hp]⟩

/-- Step 4 asks the block once: it ends the SEND, or issues the body read, or needs none. -/
theorem deriveStep_cases (v : Variant) (c : Caller) (hd : TransportHandle) (header : ByteSeq) (s : State) :
    (∃ e, bodylenOp v header = .error e ∧
      s.deriveStep v c hd header = (s.respond (bodylenResponse v header)).sendReturn c (.raised (.codec e))) ∨
    (∃ n, bodylenOp v header = .ok n ∧ n.toNat = 0 ∧
      s.deriveStep v c hd header = (s.respond (bodylenResponse v header)).toStep c hd (.readingBody header 0)) ∨
    (∃ n, bodylenOp v header = .ok n ∧ n.toNat ≠ 0 ∧
      s.deriveStep v c hd header =
        ((s.respond (bodylenResponse v header)).toStep c hd (.readingBody header n.toNat)).emit
          (.call (.tReadExact hd n.toNat))) := by
  cases hb : bodylenOp v header with
  | error e => exact .inl ⟨e, rfl, by simp [deriveStep, hb]⟩
  | ok n =>
    by_cases hn : n.toNat = 0
    · exact .inr (.inl ⟨n, rfl, hn, by simp only [deriveStep, hb, hn, if_true]⟩)
    · exact .inr (.inr ⟨n, rfl, hn, by simp only [deriveStep, hb, hn, if_false]⟩)

/-- Step 5 asks the block once and returns its answer. -/
theorem validateStep_cases (v : Variant) (c : Caller) (header body : ByteSeq) (s : State) :
    ∃ o, s.validateStep v c header body = (s.respond (decodeResponse v header body)).sendReturn c o := by
  cases hd : decodeOp v header body with
  | ok r => exact ⟨_, by simp [validateStep, hd]; rfl⟩
  | error e => exact ⟨_, by simp [validateStep, hd]; rfl⟩

end Sys2Proof.Machine.State
end

