-- ==== Sys2Proof/Laws/PerInstr.lean ====
section
/-! SUPPORT. The per-instruction family DecodeByCode: a request that carries an instruction's operation code decodes to an
instruction of that code, with both operands as the request carries them (R36, R39, R40). -/

namespace Sys2Proof.Laws.DecodeByCode

/-- The code of `i` selects an operation of the same code and drops no operand byte. -/
def Statement (i : Instr) : Prop :=
  ∀ r : Request, r.op = opOf i →
    opOf (decode r) = opOf i ∧ (decode r).operandA = r.a ∧ (decode r).operandB = r.b

/-- The code alone selects the operation, so the law holds of every instruction. -/
theorem of_code (i : Instr) : Statement i := by
  intro r h
  cases i <;> simp only [opOf] at h <;> simp [Sys2Proof.decode, h, opOf, Instr.operandA, Instr.operandB]

theorem xorfold (a b : ByteSeq) : Statement (.xorfold a b) := of_code _

theorem chkvalid (a b : ByteSeq) : Statement (.chkvalid a b) := of_code _

theorem encode (a b : ByteSeq) : Statement (.encode a b) := of_code _

theorem bodylen (a b : ByteSeq) : Statement (.bodylen a b) := of_code _

theorem decode (a b : ByteSeq) : Statement (.decode a b) := of_code _

theorem reserved101 (a b : ByteSeq) : Statement (.reserved101 a b) := of_code _

theorem reserved110 (a b : ByteSeq) : Statement (.reserved110 a b) := of_code _

theorem reserved111 (a b : ByteSeq) : Statement (.reserved111 a b) := of_code _

end Sys2Proof.Laws.DecodeByCode
end

