-- ==== Sys2Proof/Laws/Step.lean ====
section
/-! SUPPORT. What one step can do: nothing without an event, else the event at the head of the schedule. -/

namespace Sys2Proof.Machine

theorem step_idle {s : State} (h : s.inputs = []) : step s = .next s := by
  simp [step, State.advanceSchedule, h]

theorem step_event {s : State} {i : Input} {rest : List Input} (h : s.inputs = i :: rest) :
    step s = s.dropInput.deliver i := by
  simp [step, State.advanceSchedule, h]

theorem dropInput_eq {s : State} {i : Input} {rest : List Input} (h : s.inputs = i :: rest) :
    s.dropInput = { s with inputs := rest } := by
  simp [State.dropInput, h]

/-- A step that answers next left the state alone for want of an event, or delivered the next event. -/
theorem step_next {s t : State} (h : step s = .next t) :
    (s.inputs = [] ∧ t = s) ∨ ∃ i rest, s.inputs = i :: rest ∧ s.dropInput.deliver i = .next t := by
  cases hi : s.inputs with
  | nil =>
    rw [step_idle hi] at h
    exact .inl ⟨rfl, by cases h; rfl⟩
  | cons i rest =>
    rw [step_event hi] at h
    exact .inr ⟨i, rest, rfl, h⟩

/-- The same with the rest of the schedule written out. -/
theorem step_event_rest {s : State} {i : Input} {rest : List Input} (h : s.inputs = i :: rest) :
    step s = State.deliver i { s with inputs := rest } := by
  rw [step_event h, dropInput_eq h]

end Sys2Proof.Machine
end

