-- ==== Sys2Proof/Laws/System.lean ====
section
/-! SUPPORT. When two clients clash over a handle, and what one client's step can do to the system. -/

namespace Sys2Proof.Machine.System

theorem clashes_iff (y : System) (k : Nat) (hd : Handle) :
    y.clashes k hd = true ↔ hd ≠ .closed ∧ ∃ j s, j ≠ k ∧ y[j]? = some s ∧ s.handle = hd := by
  cases hd with
  | closed => simp [clashes]
  | opened h =>
    simp only [clashes, List.any_eq_true, List.mem_eraseIdx_iff_getElem?, decide_eq_true_eq]
    constructor
    · rintro ⟨s, ⟨j, hj, hs⟩, hh⟩
      exact ⟨by simp, j, s, hj, hs, hh⟩
    · rintro ⟨-, j, s, hj, hs, hh⟩
      exact ⟨s, ⟨j, hj, hs⟩, hh⟩

/-- A client's step that answers next found no such client, or set that client's next state, which clashes with no other. -/
theorem stepClient_next {y z : System} {k : Nat} (h : y.stepClient k = .next z) :
    (y[k]? = none ∧ z = y) ∨
    ∃ s t, y[k]? = some s ∧ step s = .next t ∧ y.clashes k t.handle = false ∧ z = y.set k t := by
  unfold stepClient at h
  split at h
  · next hn => exact .inl ⟨hn, by cases h; rfl⟩
  · next s hs =>
    split at h
    · next t ht =>
      split at h
      · cases h
      · next hc => exact .inr ⟨s, t, hs, ht, by simpa using hc, by cases h; rfl⟩
    · cases h
    · cases h

/-- A client's step that clashes with no other is that client's own. -/
theorem stepClient_some {y : System} {k : Nat} {s t : State} (hs : y[k]? = some s) (ht : step s = .next t)
    (hc : y.clashes k t.handle = false) : y.stepClient k = .next (y.set k t) := by
  simp [stepClient, hs, ht, hc]

end Sys2Proof.Machine.System
end

