-- ==== Sys2Proof/WellFormed.lean ====
section
/-! DEFINITION. The operand capacities of the request record (R36, R21): which instructions the block's buffers can
carry. An instruction past them still has the answer R41 gives it; these checks shut out no meaning. -/

namespace Sys2Proof

/-- R36: operand `a` holds 0 to 261 bytes. -/
def operandAFits (i : Instr) : Bool := decide (i.operandA.length ≤ Config.maxOperand)

/-- R36: operand `b` holds 0 to 255 bytes. -/
def operandBFits (i : Instr) : Bool := decide (i.operandB.length ≤ Config.maxBodyOperand)

/-- R36: both operands fit their buffers. -/
def WellFormed (i : Instr) : Bool := operandAFits i && operandBFits i

end Sys2Proof
end

