-- ==== Sys2Proof/Tests/Slice0.lean ====
section
/-! SUPPORT. Small tests, each from a vector of spec/95_test_vectors.md or a rule, and one witness for the hypotheses of every
statement that has some. -/

namespace Sys2Proof.Tests

open Sys2Proof.Machine

-- operands of up to 262 bytes are evaluated by decide
set_option maxRecDepth 16000

/-! ## Helpers -/

/-- A constructed client without the lock, nothing else done. -/
def built (v : Variant) : State := { State.reset with config := some { variant := v, sendLock := false } }

/-- The same with the lock, free. -/
def builtLocked (v : Variant) : State :=
  { State.reset with config := some { variant := v, sendLock := true }, lock := some .free }

/-- The handle of the open link in these tests. -/
def h1 : TransportHandle := { tag := 1 }

/-- A constructed client whose link is open. -/
def opened (v : Variant) : State := { built v with handle := .opened h1 }

/-- The response a step's last output is. -/
def answerOf (o : StepOutcome) : Option Response :=
  match o with
  | .next t =>
    match t.trace.getLast? with
    | some (.response r) => some r
    | _ => none
  | _ => none

/-- The response to an instruction on a constructed client. -/
def ask (v : Variant) (i : Instr) : Option Response := answerOf (exec i (built v))

/-- A refusal's reason. -/
def refusalOf (o : StepOutcome) : Option Refusal :=
  match o with
  | .refused r => some r
  | _ => none

/-- A fault's reason. -/
def faultOf (o : StepOutcome) : Option Fault :=
  match o with
  | .fault f => some f
  | _ => none

/-- What the last step shows, oldest first. -/
def traceOf (o : StepOutcome) : List Output :=
  match o with
  | .next t => t.trace
  | _ => []

/-- An OK response with a value. -/
def okWith (v : Value) : Option Response := some { status := .ok, value := some v }

/-- A response with no value. -/
def only (st : Status) : Option Response := some { status := st, value := none }

/-! ## Decoding: each operation's word written out from R39 and R40, with operands (R36) -/

theorem test_decode_xorfold : decode { op := 0b000#3, a := [0xA6], b := [1] } = .xorfold [0xA6] [1] := by decide
theorem test_decode_chkvalid : decode { op := 0b001#3, a := [0xA6], b := [1] } = .chkvalid [0xA6] [1] := by decide
theorem test_decode_encode : decode { op := 0b010#3, a := [0xA6], b := [1] } = .encode [0xA6] [1] := by decide
theorem test_decode_bodylen : decode { op := 0b011#3, a := [0xA6], b := [1] } = .bodylen [0xA6] [1] := by decide
theorem test_decode_decode : decode { op := 0b100#3, a := [0xA6], b := [1] } = .decode [0xA6] [1] := by decide
theorem test_decode_101 : decode { op := 0b101#3, a := [0xA6], b := [1] } = .reserved101 [0xA6] [1] := by decide
theorem test_decode_110 : decode { op := 0b110#3, a := [0xA6], b := [1] } = .reserved110 [0xA6] [1] := by decide
theorem test_decode_111 : decode { op := 0b111#3, a := [0xA6], b := [1] } = .reserved111 [0xA6] [1] := by decide

/-! ## WellFormed: one ill-formed term for each check (R36) -/

theorem test_a_of_261_bytes_fits : WellFormed (.xorfold (List.replicate 261 0) []) = true := by decide
theorem test_a_of_262_bytes_refused : operandAFits (.xorfold (List.replicate 262 0) []) = false := by decide
theorem test_b_of_255_bytes_fits : WellFormed (.decode [] (List.replicate 255 0)) = true := by decide
theorem test_b_of_256_bytes_refused : operandBFits (.decode [] (List.replicate 256 0)) = false := by decide

/-! ## The operations: spec/95_test_vectors.md L1 and L2 -/

theorem test_xorfold_of_261_ff : ask .B (.xorfold (List.replicate 261 0xFF) []) = okWith (.byte 0xFF) := by decide
theorem test_xorfold_over_capacity : ask .B (.xorfold (List.replicate 262 0) []) = only .lengthError := by decide
theorem test_chkvalid_detects_c6 :
    ask .A (.chkvalid [0xA6, 0x01, 0x00, 0x00, 0x00, 0x04, 0x01, 0x11, 0x22, 0xC6] []) = only .checksumMismatch := by
  decide
theorem test_chkvalid_misses_a_swap :
    ask .A (.chkvalid [0xA6, 0x01, 0x00, 0x00, 0x00, 0x04, 0x01, 0x22, 0x11, 0x91] []) = only .ok := by decide
theorem test_encode_11_22 :
    ask .A (.encode [0x11, 0x22] []) =
      okWith (.frame [0xA6, 0x01, 0x00, 0x00, 0x00, 0x04, 0x01, 0x11, 0x22, 0x91]) := by decide
theorem test_encode_253_zeros :
    ask .B (.encode (List.replicate 253 0x00) []) =
      okWith (.frame ([0xA6, 0x01, 0x00, 0x00, 0x00, 0xFF, 0x01] ++ List.replicate 253 0x00 ++ [0x59])) := by decide
theorem test_bodylen_b_largest : ask .B (.bodylen [0xA6, 0x01, 0x00, 0x00, 0xFF, 0x01] []) = okWith (.byte 0xFE) := by
  decide
theorem test_bodylen_b_zero : ask .B (.bodylen [0xA6, 0x01, 0x00, 0x00, 0x00, 0x01] []) = only .lengthError := by decide
theorem test_decode_b :
    ask .B (.decode [0xA6, 0x01, 0x00, 0x00, 0x03, 0x01] [0x00, 0xA5]) =
      okWith (.result { variant := .B, frame := [0xA6, 0x01, 0x00, 0x00, 0x03, 0x01, 0x00, 0xA5] }) := by decide
theorem test_decode_a_empty_body_mismatch :
    ask .A (.decode [0xA6, 0x01, 0x00, 0x00, 0x00] []) = only .checksumMismatch := by decide
theorem test_reserved_110_before_length :
    ask .B (.reserved110 (List.replicate 262 0) []) = only .illegalOperation := by decide
theorem test_request_before_variant :
    refusalOf (exec (.reserved101 [] []) State.reset) = some .variantNotFixed := by decide

/-! ## Accessors: L2.5's r1, r2 and r3 -/

def r1 : Result := { variant := .B, frame := [0xA6, 0x01, 0x00, 0x00, 0x03, 0x01, 0x00, 0xA5] }
def r2 : Result := { variant := .A, frame := [0xA6, 0x01, 0x00, 0x00, 0x02, 0x55, 0xF0] }
def r3 : Result := { variant := .B, frame := [0xA6, 0x01, 0x00, 0x00, 0x01, 0xA6] }

/-- A client that holds the three Results. -/
def holding : State := { built .B with results := [r1, r2, r3] }

theorem test_r1_fields :
    traceOf (holding.accessResult 0 .length) = [.field 0 .length (.byte 0x03)] ∧
    traceOf (holding.accessResult 0 .control) = [.field 0 .control (.byte 0x01)] ∧
    traceOf (holding.accessResult 0 .data) = [.field 0 .data (.bytes [0x00])] ∧
    traceOf (holding.accessResult 0 .checksum) = [.field 0 .checksum (.byte 0xA5)] ∧
    refusalOf (holding.accessResult 0 .function) = some .fieldNotInLayout := by decide

theorem test_r2_fields :
    traceOf (holding.accessResult 1 .header) = [.field 1 .header (.bytes [0xA6, 0x01, 0x00, 0x00, 0x02])] ∧
    traceOf (holding.accessResult 1 .function) = [.field 1 .function (.byte 0x02)] ∧
    traceOf (holding.accessResult 1 .data) = [.field 1 .data (.bytes [0x55])] ∧
    refusalOf (holding.accessResult 1 .length) = some .fieldNotInLayout ∧
    refusalOf (holding.accessResult 3 .frame) = some .noSuchResult := by decide

theorem test_r3_has_no_data :
    traceOf (holding.accessResult 2 .body) = [.field 2 .body (.bytes [])] ∧
    traceOf (holding.accessResult 2 .data) = [.field 2 .data (.bytes [])] ∧
    traceOf (holding.accessResult 2 .checksum) = [.field 2 .checksum (.byte 0xA6)] := by decide

/-! ## The client: one step each, from program L3.4 -/

/-- A SEND of caller 1 in flight at `stage`, variant B. -/
def sending (stage : SendStep) : State := { opened .B with phase := .inFlight 1 h1 stage }

/-- The header of L3.4 (h). -/
def hd2 : ByteSeq := [0xA6, 0x01, 0x00, 0x00, 0x02, 0x01]

theorem test_l34_a_touches_no_transport :
    traceOf (sending (.encoding (List.replicate 254 0))).proceed =
      [.sendReturned 1 (.raised (.codec .invalidPayloadLength))] := by decide

theorem test_l34_b_short_write :
    traceOf ((sending (.writing (commandFrame []))).writeAnswered (.ok 5)) =
      [.sendReturned 1 (.raised (.writeError (.short 5)))] := by decide

theorem test_l34_c_header_eof :
    traceOf ((sending (.readingHeader none)).readAnswered .eof) =
      [.sendReturned 1 (.raised (.readError .header .eof))] := by decide

theorem test_l34_e_no_body_read :
    traceOf (sending (.readingHeader (some [0xA6, 0x01, 0x00, 0x00, 0x01, 0xA6]))).proceed =
      [.response { status := .ok, value := some (.byte 0x00) }] := by decide

theorem test_l34_h_mismatch :
    traceOf (sending (.validating hd2 [0xA5])).proceed =
      [.response { status := .checksumMismatch, value := none },
       .sendReturned 1 (.raised (.codec .checksumMismatch))] := by decide

theorem test_second_send_refused_without_lock :
    refusalOf ((sending (.writing (commandFrame []))).startSend 2 [0x22]) = some .sendWhileInFlight := by decide

theorem test_close_twice_refused : refusalOf ((built .B).closeLink .ok) = some .closeWhileClosed := by decide

theorem test_close_error_code :
    traceOf ((opened .B).closeLink (.err { tag := 7 })) =
      [.call (.tClose h1), .closeReturned (.raised (.closeError { tag := 7 }))] ∧
    (HostOutcome.raised (.closeError { tag := 7 })).status.code = 11#4 := by decide

theorem test_over_long_write_faults :
    faultOf ((sending (.writing (commandFrame []))).writeAnswered (.ok 9)) = some .answerOutsideContract := by decide

/-! ## Text: R48's forms -/

theorem test_text_of_encode :
    requestText { op := 0b010#3, a := [0x11, 0x22], b := [] } =
      ['E', 'N', 'C', 'O', 'D', 'E', ' ', 'a', '=', '[', '1', '1', ' ', '2', '2', ']'] := by decide

theorem test_text_of_ok_91 :
    responseText { status := .ok, value := some (.byte 0x91) } = ['-', '>', ' ', 'O', 'K', ' ', '9', '1'] := by decide

theorem test_text_unknown_operation : readRequest ['N', 'O', 'P', ' ', 'a', '=', '[', ']'] = .error .unknownOperation := by
  decide

/-! ## Witnesses: each shows a state and operands that meet every hypothesis of the statement it is named after -/

/-- For the statements whose one hypothesis is a constructed client: ReservedCodesAnswerIllegalOperation,
EveryInstructionAnswersOnce, OrderOfIssueDoesNotMatter. -/
theorem witness_configured_client : ∃ (s : State) (cfg : Configuration), s.config = some cfg ∧ cfg.variant = .A :=
  ⟨built .A, _, rfl, rfl⟩

theorem witness_XorfoldAnswersTheFold :
    (built .B).config = some { variant := .B, sendLock := false } ∧
    answerOf (exec (.xorfold (List.replicate 261 0) []) (built .B)) = okWith (.byte 0) ∧
    answerOf (exec (.xorfold (List.replicate 262 0) []) (built .B)) = only .lengthError := by decide

theorem witness_XorfoldIgnoresOrderAndCancelsPairs :
    List.Perm [1#8, 2#8] [2#8, 1#8] ∧ List.count 5#8 [5#8, 1#8, 5#8] % 2 = 0 := by decide

theorem witness_ChkvalidComparesTheLastByte :
    ask .B (.chkvalid [] []) = only .lengthError ∧ ask .B (.chkvalid [0x00] []) = only .ok ∧
    ask .B (.chkvalid [0x01] []) = only .checksumMismatch ∧
    ask .B (.chkvalid (List.replicate 261 0) []) = only .ok ∧
    ask .B (.chkvalid (List.replicate 262 0) []) = only .lengthError := by decide

theorem witness_ChkvalidPassesExactlyOnZeroFold :
    (built .B).config = some { variant := .B, sendLock := false } ∧ 1 ≤ [0x01#8].length ∧
    [0x01#8].length ≤ 261 := by decide

theorem witness_DamageIsMissedExactlyWhenMasksCancel :
    Answers (.chkvalid [0xA6, 0xA6] []) (built .B) { status := .ok, value := none } ∧
    [0x01#8, 0x01#8].length = [0xA6#8, 0xA6#8].length := ⟨rfl, rfl⟩

theorem witness_EverySingleBitFlipIsDetected :
    Answers (.chkvalid [0xA6, 0xA6] []) (built .B) { status := .ok, value := none } ∧
    [0xA6#8, 0xA6#8][1]? = some 0xA6#8 ∧
    Answers (.decode [0xA6, 0x01, 0x00, 0x00, 0x03, 0x01] [0x00, 0xA5]) (built .B)
      { status := .ok, value := some (.result r1) } ∧
    [0xA6#8, 0x01, 0x00, 0x00, 0x03, 0x01][5]? = some 0x01#8 ∧ [0x00#8, 0xA5][1]? = some 0xA5#8 :=
  ⟨rfl, rfl, rfl, rfl, rfl⟩

theorem witness_EncodeBuildsTheCommandFrame :
    ask .B (.encode [] []) = okWith (.frame [0xA6, 0x01, 0x00, 0x00, 0x00, 0x02, 0x01, 0xA4]) ∧
    ask .B (.encode (List.replicate 254 0) []) = only .invalidPayloadLength := by decide

theorem witness_EncodeResultHasItsProperties :
    ([] : ByteSeq).length ≤ 253 ∧
    Answers (.encode [] []) (built .A) { status := .ok, value := some (.frame (commandFrame [])) } :=
  ⟨by decide, rfl⟩

theorem witness_EncodeReadsItsPayloadOnly :
    (built .A).config = some { variant := .A, sendLock := false } ∧
    (built .B).config = some { variant := .B, sendLock := false } := ⟨rfl, rfl⟩

theorem witness_BodylenDerivesTheBodyLength :
    ask .A (.bodylen [0xA6, 0x01, 0x00, 0x00, 0x00] []) = okWith (.byte 0x00) ∧
    ask .A (.bodylen [0xA6, 0x01, 0x00, 0x00, 0x02, 0x01] []) = only .lengthError ∧
    ask .B (.bodylen [0xA6, 0x01, 0x00, 0x00, 0x01, 0x01] []) = okWith (.byte 0x00) ∧
    ask .B (.bodylen [0xA6, 0x01, 0x00, 0x00, 0x03] []) = only .lengthError := by decide

theorem witness_DecodeValidatesTheWholeFrame :
    ask .A (.decode [0xA6, 0x01, 0x00, 0x00, 0x02] [0x55, 0xF0]) = okWith (.result r2) ∧
    ask .A (.decode [0xA6, 0x01, 0x00, 0x00, 0x02] [0x55, 0xF1]) = only .checksumMismatch ∧
    ask .A (.decode [0xA6, 0x01, 0x00, 0x00, 0xFF] (List.replicate 255 0)) = only .checksumMismatch ∧
    ask .A (.decode [0xA6, 0x01, 0x00, 0x00, 0xFF] (List.replicate 256 0)) = only .lengthError ∧
    ask .B (.decode [0xA6, 0x01, 0x00, 0x00] [0x00]) = only .lengthError := by decide

theorem witness_OperandLengthsAreCheckedFirst :
    operandsViolate .B (.bodylen [0xA6] []) ∧ ¬ operandsViolate .B (.bodylen hd2 []) ∧
    Answers (.chkvalid [0x01] []) (built .B) { status := .checksumMismatch, value := none } :=
  ⟨by simp [operandsViolate, hdrLen], by simp [operandsViolate, hdrLen, hd2], rfl⟩

theorem witness_BlockLeavesTheHostUntouched : ∃ t, exec (.xorfold [] []) (opened .A) = .next t := ⟨_, rfl⟩

theorem witness_RequestsNeverStopTheBlock :
    let s : State := { built .A with inputs := [.request { op := 0b111, a := [], b := [] }] }
    s.config = some { variant := .A, sendLock := false } ∧
    s.inputs = [{ op := 0b111, a := [], b := [] }].map Input.request := ⟨rfl, rfl⟩

theorem witness_AnswerDependsOnRequestAndVariant :
    (built .A).config = some { variant := .A, sendLock := false } ∧
    (builtLocked .A).config = some { variant := .A, sendLock := true } := ⟨rfl, rfl⟩

theorem witness_VariantIsFixedOnceBeforeAnyRequest :
    (let s : State := { State.reset with inputs := [.request { op := 0, a := [], b := [] }] }
     s.config = none ∧ s.inputs = [.request { op := 0, a := [], b := [] }]) ∧
    (let s : State := { built .A with inputs := [.construct { variant := .B, sendLock := false }] }
     s.config = some { variant := .A, sendLock := false } ∧
     s.inputs = [.construct { variant := .B, sendLock := false }]) ∧
    step (built .A) = .next (built .A) := ⟨⟨rfl, rfl⟩, ⟨rfl, rfl⟩, rfl⟩

theorem witness_CommonAccessorsReadTheFrame :
    holding.results[0]? = some r1 ∧ r1.frame = 0xA6 :: 0x01 :: 0x00 :: 0x00 :: [0x03, 0x01, 0x00, 0xA5] := by decide

theorem valid_r1 : r1.valid := by refine ⟨?_, ?_, ?_⟩ <;> decide
theorem valid_r2 : r2.valid := by refine ⟨?_, ?_, ?_⟩ <;> decide
theorem valid_r3 : r3.valid := by refine ⟨?_, ?_, ?_⟩ <;> decide

theorem witness_VariantAccessorsFollowTheLayout :
    (holding.results[0]? = some r1 ∧ r1.valid ∧ r1.variant = .B) ∧
    (holding.results[1]? = some r2 ∧ r2.valid ∧ r2.variant = .A) :=
  ⟨⟨rfl, valid_r1, rfl⟩, ⟨rfl, valid_r2, rfl⟩⟩

theorem witness_DataIsTheBodyWithoutItsChecksum : holding.results[2]? = some r3 := by decide

theorem witness_ChecksumAccessorIsTheFoldOfTheRest : holding.results[2]? = some r3 ∧ r3.valid ∧ r3.body = [] :=
  ⟨rfl, valid_r3, rfl⟩

theorem witness_HeldResultsNeverChange : step holding = .next holding ∧ holding.results[0]? = some r1 := ⟨rfl, rfl⟩

theorem witness_ResultsComeFromResponsesOnly :
    ∃ t, (built .B).results = (blockResponses (built .B).trace).flatMap Response.handedResults ∧
      step { built .B with inputs := [.request { op := 0b100#3, a := hd2, b := [0xA4] }] } = .next t := ⟨_, rfl, rfl⟩

theorem witness_DeviceResponseRoundTrip :
    (let d : ByteSeq := [0x10, 0x20, 0x30]
     (built .B).config = some { variant := .B, sendLock := false } ∧ d.length ≤ 253 ∧
     [0xA6#8, 0x01, 0x00, 0x00, 0x05, 0x01] = [0xA6, 0x01, 0x00, 0x00, BitVec.ofNat 8 (d.length + 2), 0x01] ∧
     d ++ [0xA3] = d ++ [xorfold ([0xA6, 0x01, 0x00, 0x00, 0x05, 0x01] ++ d)]) ∧
    (let d : ByteSeq := [0x10, 0x20, 0x30]
     (built .A).config = some { variant := .A, sendLock := false } ∧ d.length ≤ 254 ∧
     [0xA6#8, 0x01, 0x00, 0x00, 0x04] = [0xA6, 0x01, 0x00, 0x00, BitVec.ofNat 8 (d.length + 1)] ∧
     d ++ [0xA3] = d ++ [xorfold ([0xA6, 0x01, 0x00, 0x00, 0x04] ++ d)]) := by decide

theorem witness_FrameLengthIsToldByItsLengthByte :
    (List.replicate 253 0x00#8).length ≤ 253 ∧ bodylenOp .A [0xA6, 0x01, 0x00, 0x00, 0xFF] = .ok 0xFF ∧
    bodylenOp .B hd2 = .ok 0x01 := ⟨by decide, rfl, rfl⟩

theorem witness_StepRunsTheDecodedRequest :
    ∀ i ∈ [Input.request { op := 0b011#3, a := hd2, b := [] }, .reset, .construct { variant := .B, sendLock := false },
        .access 0 .frame, .openLink (.port 3 9600) (.ok h1), .send 1 [], .grant 0, .proceed, .writeAnswer (.ok 8),
        .readAnswer .eof, .closeLink .ok],
      ({ opened .B with inputs := [i, .proceed] } : State).inputs = i :: [.proceed] := fun _ _ => rfl

/-- An OPEN event of the schedule opens the handle. -/
theorem test_open_event :
    traceOf (step { built .B with inputs := [.openLink (.port 3 9600) (.ok h1)] }) =
      [.call (.tOpen (.port 3 9600)), .openReturned .ok] := by decide

theorem witness_PresentedWordRunsNext :
    (3 : Nat) ≤ 8 ∧ answerOf (step (State.reset.withFetchWord 8 0b010)) =
      okWith (.frame [0xA6, 0x01, 0x00, 0x00, 0x00, 0x02, 0x01, 0xA4]) := by decide

theorem witness_NoEventNoChange : (opened .A).inputs = [] := rfl

theorem witness_BlockResetChangesNothing :
    ({ opened .A with inputs := [.reset, .proceed] } : State).inputs = .reset :: [.proceed] := rfl

/-- A state in the middle of an exchange, as a run reaches it. -/
def midExchange : State :=
  { sending (.writing (commandFrame [0x19])) with
    trace := [.call (.tOpen (.port 3 9600)), .openReturned .ok,
      .response { status := .ok, value := some (.frame (commandFrame [0x19])) },
      .call (.tWrite h1 (commandFrame [0x19]))]
    inputs := [.writeAnswer (.ok 9)] }

theorem midExchange_inv : midExchange.Inv := by
  refine ⟨?_, ⟨?_, ?_, ?_, fun _ => rfl⟩, ?_, ?_, rfl⟩
  · intro c h stage hp
    cases hp
    exact ⟨rfl, _, rfl, [0x19], by decide, rfl⟩
  · intro cfg hc
    cases hc
    decide
  · intro hc
    cases hc
  · intro l hl
    cases hl
  · intro r hr
    cases hr
  · intro hc
    cases hc

theorem witness_EveryStepKeepsTheInvariant : midExchange.Inv ∧ ∃ t, step midExchange = .next t :=
  ⟨midExchange_inv, _, rfl⟩

theorem witness_ExchangesNeverInterleave :
    ∃ t, Host.Core.run Sys2Proof.core 4
      { State.reset with inputs := [.construct { variant := .B, sendLock := true }, .openLink (.port 3 9600) (.ok h1),
          .send 1 [0x19], .proceed] } = .next t ∧ transportCalls t.trace ≠ [] := ⟨_, rfl, by decide⟩

theorem witness_OutputsAreNeverTakenBack : ∃ t, step midExchange = .next t := ⟨_, rfl⟩

theorem witness_OpenAcquiresTheTransport :
    (built .B).config = some { variant := .B, sendLock := false } ∧ (built .B).handle = .closed ∧
    (opened .B).config = some { variant := .B, sendLock := false } ∧ (opened .B).handle ≠ .closed := by decide

theorem witness_CloseAlwaysReleasesTheTransport :
    ((opened .B).handle = .opened h1 ∧ (opened .B).phase = .idle) ∧ (built .B).handle = .closed ∧
    (midExchange.handle = .opened h1 ∧ midExchange.phase ≠ .idle) := by decide

theorem witness_HostCallsNeedConstructionAndOpen :
    State.reset.config = none ∧ (built .B).config ≠ none ∧ (built .B).handle = .closed := by decide

theorem witness_SendBeginsOrIsRefused :
    ((opened .B).config = some { variant := .B, sendLock := false } ∧ (opened .B).handle = .opened h1 ∧
      (opened .B).lock ≠ some .held ∧ (opened .B).phase = .idle) ∧
    (midExchange.handle = .opened h1 ∧ midExchange.lock = none ∧ midExchange.phase ≠ .idle) := by decide

/-- A client with the lock, its link open. -/
def openedLocked : State := { builtLocked .B with handle := .opened h1 }

theorem witness_LockedSendsWaitForAnyTurn :
    (let s := openedLocked.beginSend 1 h1 [0x11]
     s.config = some { variant := .B, sendLock := true } ∧ s.handle = .opened h1 ∧ s.lock = some .held) ∧
    (let s : State := { openedLocked with waiting := [{ caller := 2, payload := [0x22] }] }
     s.config = some { variant := .B, sendLock := true } ∧ s.handle = .opened h1 ∧ s.lock = some .free ∧
      s.phase = .idle ∧ s.waiting[0]? = some { caller := 2, payload := [0x22] }) := by decide

theorem witness_EveryReturnReleasesTheLock :
    ∃ t, step { sending (.validating hd2 [0xA4]) with inputs := [.proceed] } = .next t ∧ t.phase = .idle :=
  ⟨_, rfl, by decide⟩

theorem witness_SendEncodesBeforeItWrites :
    (sending (.encoding (List.replicate 254 0))).phase = .inFlight 1 h1 (.encoding (List.replicate 254 0)) ∧
    253 < (List.replicate 254 0x00#8).length ∧ (List.replicate 253 0x00#8).length ≤ 253 :=
  ⟨rfl, by decide, by decide⟩

theorem witness_ReadFollowsCompleteWriteOnly :
    midExchange.config = some { variant := .B, sendLock := false } ∧
    midExchange.phase = .inFlight 1 h1 (.writing (commandFrame [0x19])) ∧ 8 < (commandFrame [0x19]).length :=
  ⟨rfl, rfl, by decide⟩

theorem witness_HeaderReadIsWholeOrFails :
    (sending (.readingHeader none)).config = some { variant := .B, sendLock := false } ∧
    (sending (.readingHeader none)).phase = .inFlight 1 h1 (.readingHeader none) ∧ hd2.length = 6 := ⟨rfl, rfl, rfl⟩

theorem witness_BodyReadFollowsTheDerivedLength :
    (sending (.readingHeader (some hd2))).config = some { variant := .B, sendLock := false } ∧
    (sending (.readingHeader (some hd2))).phase = .inFlight 1 h1 (.readingHeader (some hd2)) ∧
    bodylenOp .B hd2 = .ok 0x01 ∧ bodylenOp .B [0xA6, 0x01, 0x00, 0x00, 0x00, 0x01] = .error .lengthError ∧
    bodylenOp .B [0xA6, 0x01, 0x00, 0x00, 0x01, 0xA6] = .ok 0x00 := ⟨rfl, rfl, rfl, rfl, rfl⟩

theorem witness_BodyReadIsWholeOrFails :
    (sending (.readingBody hd2 1)).config = some { variant := .B, sendLock := false } ∧
    (sending (.readingBody hd2 1)).phase = .inFlight 1 h1 (.readingBody hd2 1) ∧ (1 : Nat) ≠ 0 ∧ [0xA4#8].length = 1 ∧
    (sending (.readingBody hd2 0)).phase = .inFlight 1 h1 (.readingBody hd2 0) := by decide

theorem witness_SendReturnsTheDecodedResult :
    (sending (.validating hd2 [0xA4])).config = some { variant := .B, sendLock := false } ∧
    (sending (.validating hd2 [0xA4])).phase = .inFlight 1 h1 (.validating hd2 [0xA4]) ∧ hd2.length = 6 ∧
    [0xA4#8].length ≤ 255 ∧ xorfold (hd2 ++ [0xA4]) = 0 ∧ xorfold (hd2 ++ [0xA5]) ≠ 0 := by decide

theorem witness_WholeExchangeReturnsItsResult :
    let s : State := { opened .B with inputs :=
      [.send 1 [], .proceed, .writeAnswer (.ok 8), .readAnswer (.ok hd2), .proceed, .readAnswer (.ok [0xA4]), .proceed] }
    s.config = some { variant := .B, sendLock := false } ∧ s.handle = .opened h1 ∧ s.phase = .idle ∧
    s.lock ≠ some .held ∧ ([] : ByteSeq).length ≤ 253 ∧ bodylenOp .B hd2 = .ok 0x01 ∧
    [0xA4#8].length = (0x01#8).toNat ∧ xorfold (hd2 ++ [0xA4]) = 0 ∧
    s.inputs = [.send 1 [], .proceed, .writeAnswer (.ok (([] : ByteSeq).length + 8)), .readAnswer (.ok hd2), .proceed,
      (if 0x01#8 = 0x00#8 then .proceed else .readAnswer (.ok [0xA4])), .proceed] ++ [] :=
  ⟨rfl, rfl, rfl, by decide, by decide, rfl, rfl, rfl, rfl⟩

theorem witness_WholeExchange_emptyBody :
    bodylenOp .B [0xA6, 0x01, 0x00, 0x00, 0x01, 0xA6] = .ok 0x00 ∧ ([] : ByteSeq).length = (0x00#8).toNat ∧
    xorfold ([0xA6, 0x01, 0x00, 0x00, 0x01, 0xA6] ++ []) = 0 := ⟨rfl, rfl, rfl⟩

theorem witness_OneExchangeAtATime :
    (midExchange.phase = .inFlight 1 h1 (.writing (commandFrame [0x19])) ∧ ∃ t, step midExchange = .next t) ∧
    (let s : State := { sending (.encoding [0x19]) with inputs := [.reset] }
     s.phase = .inFlight 1 h1 (.encoding [0x19]) ∧ ∃ t, step s = .next t ∧ t.phase = s.phase) :=
  ⟨⟨rfl, _, rfl⟩, rfl, _, rfl, rfl⟩

theorem witness_SendBlocksUntilTheTransportAnswers :
    let s : State := { midExchange with inputs := [.proceed] }
    s.inFlightOk ∧ s.phase = .inFlight 1 h1 (.writing (commandFrame [0x19])) ∧
    (∀ a, s.inputs.head? ≠ some (.writeAnswer a)) ∧ (∀ a, s.inputs.head? ≠ some (.readAnswer a)) ∧
    ∃ t, step s = .next t := by
  refine ⟨midExchange_inv.inFlight, rfl, ?_, ?_, _, rfl⟩ <;> intro a h <;> cases h

theorem witness_AnswersOutsideTheContractFault :
    ((sending (.readingHeader none)).phase = .inFlight 1 h1 (.readingHeader none) ∧ [0xA6#8].length ≠ 6) ∧
    (midExchange.phase = .inFlight 1 h1 (.writing (commandFrame [0x19])) ∧ (commandFrame [0x19]).length < 10) ∧
    ((sending (.readingBody hd2 1)).phase = .inFlight 1 h1 (.readingBody hd2 1) ∧ (1 : Nat) ≠ 0 ∧
      [0xA4#8, 0x00].length ≠ 1) ∧
    (opened .B).phase = .idle :=
  ⟨⟨rfl, by decide⟩, ⟨rfl, by decide⟩, ⟨rfl, by decide, by decide⟩, rfl⟩

/-- Each stage at which no write is outstanding, and each at which no read is. -/
theorem witness_AnswersWithoutCall :
    (∀ stage ∈ [SendStep.encoding [], .readingHeader none, .readingHeader (some hd2), .readingBody hd2 0,
        .readingBody hd2 1, .validating hd2 []],
      (sending stage).phase = .inFlight 1 h1 stage ∧ ∀ f, stage ≠ .writing f) ∧
    (∀ stage ∈ [SendStep.encoding [], .writing [], .readingHeader (some hd2), .readingBody hd2 0, .validating hd2 []],
      (sending stage).phase = .inFlight 1 h1 stage ∧ stage ≠ .readingHeader none ∧
        ∀ hd n, n ≠ 0 → stage ≠ .readingBody hd n) := by
  constructor
  · intro stage hm
    simp at hm
    rcases hm with rfl | rfl | rfl | rfl | rfl | rfl <;> exact ⟨rfl, by simp⟩
  · intro stage hm
    simp at hm
    rcases hm with rfl | rfl | rfl | rfl | rfl <;> refine ⟨rfl, by simp, ?_⟩ <;> simp
    intro _ n hn _ h0
    exact hn h0.symm

/-- A second client's handle. -/
def h2 : TransportHandle := { tag := 2 }

/-- A second client, whose link is open on a handle of its own. -/
def second : State := { built .A with handle := .opened h2 }

theorem witness_SeparateClientsAreIndependent :
    (0 : Nat) ≠ 1 ∧ ∃ z w, System.stepClient [midExchange, second] 0 = .next z ∧ System.stepClient z 1 = .next w :=
  ⟨by decide, _, _, rfl, rfl⟩

/-- The exception of the statement: client 0 closes its link and client 1 then opens the same handle. -/
theorem witness_SeparateClients_handlePassedOn :
    ∃ z w, System.stepClient [{ opened .B with inputs := [.closeLink .ok] },
        { built .A with inputs := [.openLink (.port 3 9600) (.ok h1)] }] 0 = .next z ∧
      System.stepClient z 1 = .next w ∧ (w[1]?).map State.handle = some (.opened h1) := ⟨_, _, rfl, rfl, rfl⟩

theorem exclusive_pair : System.Exclusive [midExchange, second] := by
  intro j k s t h hjk hs ht hh hh'
  match j, k with
  | 0, 0 => exact hjk rfl
  | 1, 1 => exact hjk rfl
  | 0, 1 => cases hs; cases ht; cases hh; cases hh'
  | 1, 0 => cases hs; cases ht; cases hh; cases hh'
  | j + 2, _ => simp at hs
  | _, k + 2 => simp at ht

theorem witness_ClientsOwnTheirHandlesExclusively :
    (System.Exclusive [midExchange, second] ∧ ∃ z, System.stepClient [midExchange, second] 0 = .next z) ∧
    (let s : State := { built .A with inputs := [.openLink (.port 4 9600) (.ok h1)] }
     [midExchange, s][1]? = some s ∧ (∃ t, step s = .next t ∧ t.handle = .opened h1) ∧
      [midExchange, s][0]? = some midExchange ∧ midExchange.handle = .opened h1) :=
  ⟨⟨exclusive_pair, _, rfl⟩, rfl, ⟨_, rfl, rfl⟩, rfl, rfl⟩

theorem test_handle_of_another_client_faults :
    (match System.stepClient [midExchange, { built .A with inputs := [.openLink (.port 4 9600) (.ok h1)] }] 1 with
     | .fault f => some f
     | _ => none) = some .handleOwnedByAnother := by decide

end Sys2Proof.Tests
end

/-! PROOFS. What a response of the block can be: OK, or the raise of one of the block's own errors (R14, R38). -/

namespace Sys2Proof.Machine

/-- R14: an operation ends in `return v` or in `raise e`, whatever value it wraps. -/
theorem ofOutcome_status_ok_or_eq_raise {α : Type} (wrap : α → Option Value) (o : Except BlockError α) :
    (Response.ofOutcome wrap o).status = .ok ∨ ∃ e, Response.ofOutcome wrap o = Response.raise e := by
  cases o with
  | ok v => exact .inl rfl
  | error e => exact .inr ⟨e, rfl⟩

/-- R14, R40: the block answers an instruction with OK or with the raise of a block error. -/
theorem blockAnswer_status_ok_or_eq_raise (v : Variant) (i : Instr) :
    (blockAnswer v i).status = .ok ∨ ∃ e, blockAnswer v i = Response.raise e := by
  cases i with
  | xorfold a b => exact ofOutcome_status_ok_or_eq_raise _ (xorfoldOp a)
  | chkvalid a b => exact ofOutcome_status_ok_or_eq_raise _ (chkvalidOp a)
  | encode a b => exact ofOutcome_status_ok_or_eq_raise _ (encodeOp a)
  | bodylen a b => exact ofOutcome_status_ok_or_eq_raise _ (bodylenOp v a)
  | decode a b => exact ofOutcome_status_ok_or_eq_raise _ (decodeOp v a b)
  | reserved101 a b | reserved110 a b | reserved111 a b => exact .inr ⟨.illegalOperation, rfl⟩

/-- R38: a block error's code is one of 1 to 4, never one of the host's 8 to 11. -/
theorem blockError_status_mem (e : BlockError) :
    e.status ∈ [Status.invalidPayloadLength, .checksumMismatch, .lengthError, .illegalOperation] := by
  cases e <;> simp [BlockError.status]

/-- R14, R37: on a configured client the block answers an instruction with `blockAnswer`, and does nothing else. -/
theorem answers_blockAnswer {s : State} {cfg : Configuration} (h : s.config = some cfg) (i : Instr) :
    Answers i s (blockAnswer cfg.variant i) :=
  exec_some h i

/-- Settles O13: the response is `blockAnswer`, which is OK or the raise of a block error. -/
theorem everyInstructionAnswersOnce : Obligations.EveryInstructionAnswersOnce := by
  intro i s cfg hcfg
  refine ⟨blockAnswer cfg.variant i, answers_blockAnswer hcfg i, ?_⟩
  obtain hok | ⟨e, he⟩ := blockAnswer_status_ok_or_eq_raise cfg.variant i
  · exact ⟨fun hne => absurd hok hne, by simp [hok]⟩
  · rw [he]
    exact ⟨fun _ => rfl, List.mem_cons_of_mem _ (blockError_status_mem e)⟩

end Sys2Proof.Machine

/-! PROOFS. The block's frame (O15), one step by its event (O33), the state after construction (O37), and the machine's
invariant at reset and at every step (O38, O39). -/

namespace Sys2Proof.Machine

/-! ## The frame of the block -/

/-- R58: only a DECODE hands over a Result. -/
theorem handedResults_blockAnswer_eq_nil {i : Instr} (hi : ∀ a b, i ≠ .decode a b) (v : Variant) :
    (blockAnswer v i).handedResults = [] := by
  refine List.eq_nil_iff_forall_not_mem.2 fun r hr => ?_
  obtain ⟨a, b, hab, -⟩ := handed_by_decode hr
  exact hi a b hab

/-- Settles O15: an instruction that answers next only responds, and a response adds to the outputs and the Results. -/
theorem blockLeavesTheHostUntouched : Obligations.BlockLeavesTheHostUntouched := by
  intro i s t h
  obtain ⟨cfg, -, rfl⟩ := exec_next h
  refine ⟨rfl, rfl, rfl, rfl, rfl, rfl, blockAnswer cfg.variant i, rfl, rfl, fun hi => ?_⟩
  rw [State.respond_results, handedResults_blockAnswer_eq_nil hi, List.append_nil]

/-! ## One step, by the event it takes -/

/-- Settles O33: a step delivers the event at the head of the schedule, and each event has its own function there. -/
theorem stepRunsTheDecodedRequest : Obligations.StepRunsTheDecodedRequest := by
  rintro s u rest rfl
  exact ⟨fun _ h => step_event_rest h, fun h => step_event_rest h, fun _ h => step_event_rest h,
    fun _ _ h => step_event_rest h, fun _ _ h => step_event_rest h, fun _ _ h => step_event_rest h,
    fun _ h => step_event_rest h, fun h => step_event_rest h, fun _ h => step_event_rest h,
    fun _ h => step_event_rest h, fun _ h => step_event_rest h⟩

/-- Settles O37: the step delivers the construction, which fixes the configuration and makes the lock. -/
theorem constructionFromResetGivesR24 : Obligations.ConstructionFromResetGivesR24 :=
  fun c rest => step_event_rest (s := { State.reset with inputs := .construct c :: rest }) rfl

/-! ## The parts of the invariant -/

/-- R72, R96: one more output moves the exchange on from where the trace left it. -/
theorem exchangeAfter_concat {t : List Output} {x : Exchange} (h : exchangeAfter t = some x) (o : Output) :
    exchangeAfter (t ++ [o]) = x.next o := by
  simp only [exchangeAfter] at h
  simp [exchangeAfter, List.foldlM_append, h]

/-- R57, R58: what DECODE returns is a valid Result of the variant it was decoded under. -/
theorem valid_of_decodeOp_ok {v : Variant} {a b : ByteSeq} {r : Result} (h : decodeOp v a b = .ok r) :
    r.valid ∧ r.variant = v := by
  obtain ⟨ha, hb, hsum, rfl⟩ := decodeOp_ok h
  refine ⟨⟨?_, ?_, hsum⟩, rfl⟩ <;> simp only [List.length_append] <;> omega

namespace State

theorem inFlightOk_of_idle {s : State} (hp : s.phase = .idle) : s.inFlightOk := by
  intro c h step hstep
  rw [hp] at hstep
  cases hstep

theorem inFlightOk_of_inFlight {s : State} {c : Caller} {h : TransportHandle} {stage : SendStep} {cfg : Configuration}
    (hp : s.phase = .inFlight c h stage) (hh : s.handle = .opened h) (hc : s.config = some cfg)
    (hd : stage.dataOk cfg.variant) : s.inFlightOk := by
  intro c' h' stage' hp'
  rw [hp] at hp'
  cases hp'
  exact ⟨hh, cfg, hc, hd⟩

/-- R72: taking or releasing the lock as a SEND begins or returns leaves it held exactly while one is in flight. -/
theorem lockOk_of_map {s : State} {p : Phase} {l : Lock} {tr : List Output} (hs : s.lockOk)
    (hl : l = .held ↔ p ≠ .idle) :
    ({ s with phase := p, lock := s.lock.map fun _ => l, trace := tr } : State).lockOk := by
  obtain ⟨hexists, hnone, -, hwait⟩ := hs
  refine ⟨?_, ?_, fun l' hl' => ?_, ?_⟩
  · simpa using hexists
  · simpa using hnone
  · obtain ⟨_, -, rfl⟩ := Option.map_eq_some_iff.1 hl'
    exact hl
  · simpa using hwait

end State

/-- Settles O38: nothing is fixed, open, in flight, held or shown after reset. -/
theorem resetMeetsTheInvariant : Obligations.ResetMeetsTheInvariant where
  inFlight := State.inFlightOk_of_idle rfl
  lock := ⟨nofun, fun _ => rfl, nofun, fun _ => rfl⟩
  results := nofun
  handle := fun _ => rfl
  exchange := rfl

namespace State.Inv

variable {s : State} {c : Caller} {h : TransportHandle} {stage stage' : SendStep} {cfg : Configuration}

/-! ## What the invariant says of a client not yet open, and of one not yet constructed -/

/-- R66: with the handle closed no SEND is in flight. -/
theorem idle_of_closed (hs : s.Inv) (hh : s.handle = .closed) : s.phase = .idle := by
  cases hp : s.phase with
  | idle => rfl
  | inFlight c h stage =>
    obtain ⟨hopen, -⟩ := hs.inFlight c h stage hp
    rw [hh] at hopen
    cases hopen

/-- R65, R94: a client whose handle is open is constructed. -/
theorem configured_of_opened (hs : s.Inv) (hh : s.handle = .opened h) : ∃ cfg, s.config = some cfg := by
  refine Option.ne_none_iff_exists'.1 fun hc => ?_
  rw [hs.handle hc] at hh
  cases hh

/-- R58: before construction no caller holds a Result. -/
theorem results_nil_of_unconfigured (hs : s.Inv) (hc : s.config = none) : s.results = [] := by
  refine List.eq_nil_iff_forall_not_mem.2 fun r hr => ?_
  obtain ⟨-, cfg, hcfg, -⟩ := hs.results r hr
  rw [hc] at hcfg
  cases hcfg

/-! ## What keeps the invariant: each shared operation on the state -/

/-- R36: the schedule is no part of the invariant. -/
theorem dropInput (hs : s.Inv) : s.dropInput.Inv :=
  ⟨hs.inFlight, hs.lock, hs.results, hs.handle, hs.exchange⟩

/-- An output that leaves the exchange where it stands keeps the invariant. -/
theorem emit {o : Output} (hs : s.Inv) (ho : s.phase.exchange.next o = some s.phase.exchange) : (s.emit o).Inv :=
  ⟨hs.inFlight, hs.lock, hs.results, hs.handle, (exchangeAfter_concat hs.exchange o).trans ho⟩

/-- R57, R58: a response of the block hands over only valid Results of the client's VARIANT. -/
theorem respond (hs : s.Inv) (hc : s.config = some cfg) (i : Instr) :
    (s.respond (blockAnswer cfg.variant i)).Inv := by
  refine ⟨hs.inFlight, hs.lock, fun r hr => ?_, hs.handle, exchangeAfter_concat hs.exchange _⟩
  rcases List.mem_append.1 hr with hold | hnew
  · exact hs.results r hold
  · obtain ⟨a, b, -, hd⟩ := handed_by_decode hnew
    obtain ⟨hvalid, hvar⟩ := valid_of_decodeOp_ok hd
    exact ⟨hvalid, cfg, hc, hvar⟩

/-- R66: a SEND in flight may go on to any step whose data are there and at which the trace leaves the exchange. -/
theorem moveSend {tr : List Output} (hs : s.Inv) (hp : s.phase = .inFlight c h stage) (hc : s.config = some cfg)
    (hd : stage'.dataOk cfg.variant) (hx : exchangeAfter tr = some (Phase.inFlight c h stage').exchange) :
    ({ s with phase := .inFlight c h stage', trace := tr } : State).Inv := by
  obtain ⟨hopen, -⟩ := hs.inFlight c h stage hp
  obtain ⟨hexists, hnone, hheld, hwait⟩ := hs.lock
  refine ⟨inFlightOk_of_inFlight rfl hopen hc hd, ⟨hexists, hnone, fun l hl => ?_, hwait⟩, hs.results, hs.handle, hx⟩
  simp [hheld l hl, hp]

/-- The SEND moves without a call on the transport. -/
theorem toStep (hs : s.Inv) (hp : s.phase = .inFlight c h stage) (hc : s.config = some cfg)
    (hd : stage'.dataOk cfg.variant) (hx : s.phase.exchange = (Phase.inFlight c h stage').exchange) :
    (s.toStep c h stage').Inv :=
  hs.moveSend hp hc hd (hx ▸ hs.exchange)

/-- The SEND moves and issues the transport call its new step waits for. -/
theorem toStep_emit {o : Output} (hs : s.Inv) (hp : s.phase = .inFlight c h stage) (hc : s.config = some cfg)
    (hd : stage'.dataOk cfg.variant) (hx : s.phase.exchange.next o = some (Phase.inFlight c h stage').exchange) :
    ((s.toStep c h stage').emit o).Inv :=
  hs.moveSend hp hc hd ((exchangeAfter_concat hs.exchange o).trans hx)

/-- R66, R72: a SEND that returns leaves the client idle, its lock free and the transport between exchanges. -/
theorem sendReturn (hs : s.Inv) (c : Caller) (o : HostOutcome) : (s.sendReturn c o).Inv :=
  ⟨inFlightOk_of_idle rfl, lockOk_of_map hs.lock (by simp), hs.results, hs.handle,
    exchangeAfter_concat hs.exchange _⟩

/-- R66, R72: a SEND that begins on an idle open client takes the lock. -/
theorem beginSend (hs : s.Inv) (hc : s.config = some cfg) (hh : s.handle = .opened h) (hp : s.phase = .idle)
    (c : Caller) (p : ByteSeq) : (s.beginSend c h p).Inv := by
  have hx : exchangeAfter s.trace = some s.phase.exchange := hs.exchange
  rw [hp] at hx
  exact ⟨inFlightOk_of_inFlight rfl hh hc trivial, lockOk_of_map hs.lock (by simp), hs.results, hs.handle, hx⟩

/-- R72: where there is a lock, any SENDs may wait for it. -/
theorem withWaiting {l : Lock} (hs : s.Inv) (hl : s.lock = some l) (w : List WaitingSend) :
    ({ s with waiting := w } : State).Inv := by
  obtain ⟨hexists, hnone, hheld, -⟩ := hs.lock
  exact ⟨hs.inFlight, ⟨hexists, hnone, hheld, fun hn => by simp [hl] at hn⟩, hs.results, hs.handle, hs.exchange⟩

/-- R65, R71: between SENDs a configured client may open or close its handle. -/
theorem withHandle (hs : s.Inv) (hc : s.config = some cfg) (hp : s.phase = .idle) (hd : Handle) :
    ({ s with handle := hd } : State).Inv :=
  ⟨inFlightOk_of_idle hp, hs.lock, hs.results, fun hn => by simp [hc] at hn, hs.exchange⟩

/-! ## What keeps the invariant: each event of the schedule -/

/-- R24, R93: construction fixes the configuration of a client that has done nothing, and makes its lock. -/
theorem construct {t : State} (hs : s.Inv) (ht : s.construct cfg = .next t) : t.Inv := by
  obtain ⟨hc, rfl⟩ := construct_next ht
  obtain ⟨-, hnone, -, hwait⟩ := hs.lock
  have hidle := hs.idle_of_closed (hs.handle hc)
  refine ⟨inFlightOk_of_idle hidle, ⟨?_, nofun, ?_, fun _ => hwait (hnone hc)⟩, fun r hr => ?_, nofun, hs.exchange⟩
  · rintro _ ⟨⟩
    simp
  · intro l hl
    obtain ⟨-, ⟨⟩⟩ := Option.ite_none_right_eq_some.1 hl
    simp [hidle]
  · simp [hs.results_nil_of_unconfigured hc] at hr

/-- R65: OPEN runs between exchanges, and opens the handle of a constructed client or leaves it closed. -/
theorem openLink {t : State} {link : LinkConfig} {answer : OpenAnswer} (hs : s.Inv)
    (ht : s.openLink link answer = .next t) : t.Inv := by
  obtain ⟨⟨cfg, hc⟩, hclosed, rfl⟩ := openLink_next ht
  have hidle := hs.idle_of_closed hclosed
  have hcalled : (s.emit (.call (.tOpen link))).Inv := hs.emit (by rw [hidle]; rfl)
  cases answer with
  | ok h => exact (hcalled.withHandle hc hidle (.opened h)).emit rfl
  | err e => exact hcalled.emit rfl

/-- R71: CLOSE runs between exchanges, and closes the handle whatever TClose answers. -/
theorem closeLink {t : State} {answer : CloseAnswer} (hs : s.Inv) (ht : s.closeLink answer = .next t) : t.Inv := by
  obtain ⟨h, hopen, hidle, rfl⟩ := closeLink_next ht
  obtain ⟨cfg, hc⟩ := hs.configured_of_opened hopen
  have hcalled : (s.emit (.call (.tClose h))).Inv := hs.emit (by rw [hidle]; rfl)
  have hreturned := (hcalled.withHandle hc hidle .closed).emit (o := .closeReturned (closeOutcome answer)) rfl
  simpa [State.emit] using hreturned

/-- R66, R72: a SEND that starts waits for the held lock or begins. -/
theorem startSend {t : State} {p : ByteSeq} (hs : s.Inv) (ht : s.startSend c p = .next t) : t.Inv := by
  obtain ⟨cfg, h, hc, hopen, ⟨hheld, rfl⟩ | ⟨-, hidle, rfl⟩⟩ := startSend_next ht
  · exact hs.withWaiting hheld _
  · exact hs.beginSend hc hopen hidle c p

/-- R72: an offer of the lock moves nothing, or starts a SEND taken out of the waiting ones. -/
theorem grant {t : State} {k : Nat} (hs : s.Inv) (ht : s.grant k = .next t) : t.Inv := by
  obtain rfl | ⟨w, hfree, -, hstart⟩ := grant_next ht
  · exact hs
  · exact (hs.withWaiting hfree _).startSend hstart

/-- R66 step 1: the SEND returns, or issues the write of a command frame. -/
theorem encodeStep {p : ByteSeq} (hs : s.Inv) (hp : s.phase = .inFlight c h (.encoding p)) (hc : s.config = some cfg) :
    (s.encodeStep c h p).Inv := by
  obtain ⟨-, heq⟩ | ⟨hfits, heq⟩ := encodeStep_cases c h p s
  · exact heq ▸ hs.sendReturn c _
  · rw [heq]
    exact (hs.respond hc (.encode p [])).toStep_emit hp hc ⟨p, hfits, rfl⟩ (by rw [respond_phase, hp]; rfl)

/-- R66 step 4: the SEND returns, or knows the length of the body it reads. -/
theorem deriveStep {hd : ByteSeq} (hs : s.Inv) (hp : s.phase = .inFlight c h (.readingHeader (some hd)))
    (hc : s.config = some cfg) (hlen : hd.length = hdrLen cfg.variant) : (s.deriveStep cfg.variant c h hd).Inv := by
  have hresp := hs.respond hc (.bodylen hd [])
  obtain ⟨e, -, heq⟩ | ⟨n, hn, hzero, heq⟩ | ⟨n, hn, hpos, heq⟩ := deriveStep_cases cfg.variant c h hd s <;> rw [heq]
  · exact hresp.sendReturn c _
  · exact hresp.toStep hp hc ⟨hlen, n, hn, hzero⟩ (by rw [respond_phase, hp]; rfl)
  · refine hresp.toStep_emit hp hc ⟨hlen, n, hn, rfl⟩ ?_
    rw [respond_phase, hp]
    simp [Phase.exchange, Exchange.next, hpos]

/-- R66 step 5: the SEND returns DECODE's answer. -/
theorem validateStep {hd bd : ByteSeq} (hs : s.Inv) (hc : s.config = some cfg) :
    (s.validateStep cfg.variant c hd bd).Inv := by
  obtain ⟨o, heq⟩ := validateStep_cases cfg.variant c hd bd s
  exact heq ▸ (hs.respond hc (.decode hd bd)).sendReturn c o

/-- R66: the SEND in flight performs its next local action; while a call is outstanding there is none. -/
theorem advance (hs : s.Inv) (hp : s.phase = .inFlight c h stage) (hc : s.config = some cfg) :
    (s.advance cfg.variant c h stage).Inv := by
  obtain ⟨-, cfg', hc', hdata⟩ := hs.inFlight c h stage hp
  obtain rfl : cfg = cfg' := Option.some.inj (hc.symm.trans hc')
  match stage with
  | .encoding p => exact hs.encodeStep hp hc
  | .writing f => exact hs
  | .readingHeader none => exact hs
  | .readingHeader (some hd) => exact hs.deriveStep hp hc hdata
  | .readingBody hd 0 => exact hs.toStep hp hc hdata (by rw [hp]; rfl)
  | .readingBody hd (n + 1) => exact hs
  | .validating hd bd => exact hs.validateStep hc

/-- R66: the client acts when a SEND is in flight, and else nothing moves. -/
theorem proceed {t : State} (hs : s.Inv) (ht : s.proceed = .next t) : t.Inv := by
  obtain ⟨-, rfl⟩ | ⟨c, h, stage, cfg, hp, hc, rfl⟩ := proceed_next ht
  · exact hs
  · exact hs.advance hp hc

/-- R66 step 2: the SEND returns, or its header read follows the complete write. -/
theorem writeAnswered {t : State} {answer : WriteAnswer} (hs : s.Inv) (ht : s.writeAnswered answer = .next t) :
    t.Inv := by
  obtain ⟨c, h, f, hp, ⟨cause, rfl⟩ | ⟨cfg, hc, -, rfl⟩⟩ := writeAnswered_next ht
  · exact hs.sendReturn c _
  · exact hs.toStep_emit hp hc trivial (by rw [hp]; rfl)

/-- R66 steps 3 and 4: the SEND returns, or has the header, or has a body that is not empty. -/
theorem readAnswered {t : State} {answer : ReadAnswer} (hs : s.Inv) (ht : s.readAnswered answer = .next t) :
    t.Inv := by
  obtain ⟨c, h, stage, hp, ⟨part, cause, rfl⟩ | ⟨cfg, hd, rfl, hc, -, hlen, rfl⟩ |
    ⟨hd, n, bd, rfl, hpos, -, hn, rfl⟩⟩ := readAnswered_next ht
  · exact hs.sendReturn c _
  · exact hs.toStep hp hc hlen (by rw [hp]; rfl)
  · obtain ⟨-, cfg, hc, hlen, len, hok, hval⟩ := hs.inFlight c h _ hp
    have hne : bd ≠ [] := fun hnil => hpos (by rw [← hn, hnil]; rfl)
    refine hs.toStep hp hc ⟨hlen, len, hok, hval.trans hn.symm⟩ ?_
    rw [hp]
    simp [Phase.exchange, hpos, hne]

/-- Every event the machine answers keeps the invariant: a request and an access only add an output, and each of the others
has its lemma. -/
theorem deliver {t : State} {i : Input} (hs : s.Inv) (ht : s.deliver i = .next t) : t.Inv := by
  cases i with
  | reset => cases ht; exact hs
  | construct cfg => exact hs.construct ht
  | request r =>
    obtain ⟨cfg, hc, rfl⟩ := exec_next ht
    exact hs.respond hc _
  | access k f =>
    obtain ⟨r, v, -, -, rfl⟩ := accessResult_next ht
    exact hs.emit rfl
  | openLink link answer => exact hs.openLink ht
  | send c p => exact hs.startSend ht
  | grant k => exact hs.grant ht
  | proceed => exact hs.proceed ht
  | writeAnswer answer => exact hs.writeAnswered ht
  | readAnswer answer => exact hs.readAnswered ht
  | closeLink answer => exact hs.closeLink ht

end State.Inv

/-- Settles O39: without an event nothing moves, and with one the event keeps the invariant. -/
theorem everyStepKeepsTheInvariant : Obligations.EveryStepKeepsTheInvariant := by
  intro s t hs ht
  obtain ⟨-, rfl⟩ | ⟨i, rest, -, hi⟩ := step_next ht
  · exact hs
  · exact hs.dropInput.deliver hi

end Sys2Proof.Machine

/-! PROOFS. The block as a function of the request and VARIANT (O17), two transactions in either order (O18), and what a
step may do to the record of outputs and to the schedule (O41). -/

namespace Sys2Proof.Machine

/-! ## The block's answers -/

/-- Settles O17: the answer is `blockAnswer`, which reads the instruction and VARIANT only. -/
theorem answerDependsOnRequestAndVariant : Obligations.AnswerDependsOnRequestAndVariant := by
  intro i s s' cfg cfg' hcfg hcfg' hv
  have hs' : Answers i s' (blockAnswer cfg.variant i) := hv ▸ answers_blockAnswer hcfg' i
  exact ⟨blockAnswer cfg.variant i, answers_blockAnswer hcfg i, hs'⟩

/-- R37, R58: two responses in a row add both to the outputs, and the Results of both, in their order. -/
theorem State.respond_respond (r r' : Response) (s : State) :
    (s.respond r).respond r' =
      { s with
        trace := s.trace ++ [.response r, .response r']
        results := s.results ++ r.handedResults ++ r'.handedResults } := by
  simp [State.respond]

/-- R30, R32: an earlier response does not change what the block answers next. -/
theorem exec_respond {s : State} {cfg : Configuration} (hcfg : s.config = some cfg) (r : Response) (i : Instr) :
    exec i (s.respond r) = .next ((s.respond r).respond (blockAnswer cfg.variant i)) :=
  exec_some (s := s.respond r) hcfg i

/-- Settles O18: an earlier response does not change a later one, so only the order differs. -/
theorem orderOfIssueDoesNotMatter : Obligations.OrderOfIssueDoesNotMatter := by
  intro i j s cfg hcfg
  refine ⟨blockAnswer cfg.variant i, blockAnswer cfg.variant j, _, _, _, _,
    exec_some hcfg i, exec_respond hcfg _ j, exec_some hcfg j, exec_respond hcfg _ i,
    s.respond_respond _ _, s.respond_respond _ _, ?_⟩
  simp only [State.respond_results, List.append_assoc]
  exact List.perm_append_comm.append_left s.results

/-! ## What only adds outputs -/

/-- R30, R74: `t` shows all that `s` showed, and perhaps more, and has the same schedule still to come. -/
def State.OnlyAddsOutputs (s t : State) : Prop := s.trace <+: t.trace ∧ t.inputs = s.inputs

namespace State.OnlyAddsOutputs

variable {s t u : State}

theorem of_trace_eq (htrace : t.trace = s.trace) (hinputs : t.inputs = s.inputs) : s.OnlyAddsOutputs t :=
  ⟨htrace ▸ List.prefix_rfl, hinputs⟩

theorem of_trace_eq_append (o : List Output) (htrace : t.trace = s.trace ++ o) (hinputs : t.inputs = s.inputs) :
    s.OnlyAddsOutputs t :=
  ⟨⟨o, htrace.symm⟩, hinputs⟩

theorem refl (s : State) : s.OnlyAddsOutputs s := of_trace_eq rfl rfl

theorem trans (hst : s.OnlyAddsOutputs t) (htu : t.OnlyAddsOutputs u) : s.OnlyAddsOutputs u :=
  ⟨hst.1.trans htu.1, htu.2.trans hst.2⟩

/-! ## The shared operations on the state -/

theorem emit (o : Output) (s : State) : s.OnlyAddsOutputs (s.emit o) := of_trace_eq_append [o] rfl rfl

theorem respond (r : Response) (s : State) : s.OnlyAddsOutputs (s.respond r) :=
  of_trace_eq_append [.response r] rfl rfl

theorem toStep (c : Caller) (h : TransportHandle) (stage : SendStep) (s : State) :
    s.OnlyAddsOutputs (s.toStep c h stage) :=
  of_trace_eq rfl rfl

theorem toStep_emit (c : Caller) (h : TransportHandle) (stage : SendStep) (o : Output) (s : State) :
    s.OnlyAddsOutputs ((s.toStep c h stage).emit o) :=
  (toStep c h stage s).trans (emit o _)

theorem sendReturn (c : Caller) (o : HostOutcome) (s : State) : s.OnlyAddsOutputs (s.sendReturn c o) :=
  of_trace_eq_append [.sendReturned c o] rfl rfl

/-! ## The events of the schedule -/

theorem construct {cfg : Configuration} (h : s.construct cfg = .next t) : s.OnlyAddsOutputs t := by
  obtain ⟨-, rfl⟩ := construct_next h
  exact of_trace_eq rfl rfl

theorem exec {i : Instr} (h : exec i s = .next t) : s.OnlyAddsOutputs t := by
  obtain ⟨cfg, -, rfl⟩ := exec_next h
  exact respond _ s

theorem accessResult {k : Nat} {f : Field} (h : s.accessResult k f = .next t) : s.OnlyAddsOutputs t := by
  obtain ⟨r, v, -, -, rfl⟩ := accessResult_next h
  exact emit _ s

/-- R65: OPEN shows the call and its own return, whatever TOpen answers. -/
theorem openLink {link : LinkConfig} {answer : OpenAnswer} (h : s.openLink link answer = .next t) :
    s.OnlyAddsOutputs t := by
  obtain ⟨-, -, rfl⟩ := openLink_next h
  refine (emit (.call (.tOpen link)) s).trans ?_
  cases answer with
  | ok h => exact of_trace_eq_append [.openReturned .ok] rfl rfl
  | err e => exact emit _ _

theorem closeLink {answer : CloseAnswer} (h : s.closeLink answer = .next t) : s.OnlyAddsOutputs t := by
  obtain ⟨hd, -, -, rfl⟩ := closeLink_next h
  exact of_trace_eq_append [.call (.tClose hd), .closeReturned (closeOutcome answer)] rfl rfl

/-- R66, R72: a SEND that starts shows nothing yet, whether it waits or begins. -/
theorem startSend {c : Caller} {p : ByteSeq} (h : s.startSend c p = .next t) : s.OnlyAddsOutputs t := by
  obtain ⟨cfg, hd, -, -, ⟨-, rfl⟩ | ⟨-, -, rfl⟩⟩ := startSend_next h <;> exact of_trace_eq rfl rfl

/-- R72: an offer of the lock moves nothing, or starts a SEND taken out of the waiting ones. -/
theorem grant {k : Nat} (h : s.grant k = .next t) : s.OnlyAddsOutputs t := by
  obtain rfl | ⟨w, -, -, hstart⟩ := grant_next h
  · exact refl _
  · have hwaiting : s.OnlyAddsOutputs { s with waiting := s.waiting.eraseIdx k } := of_trace_eq rfl rfl
    exact hwaiting.trans (startSend hstart)

/-! ## SEND's own actions and the transport's answers -/

theorem encodeStep (c : Caller) (h : TransportHandle) (p : ByteSeq) (s : State) :
    s.OnlyAddsOutputs (s.encodeStep c h p) := by
  obtain ⟨-, heq⟩ | ⟨-, heq⟩ := encodeStep_cases c h p s <;> rw [heq]
  · exact sendReturn c _ s
  · exact (respond _ s).trans (toStep_emit c h _ _ _)

theorem deriveStep (v : Variant) (c : Caller) (h : TransportHandle) (hd : ByteSeq) (s : State) :
    s.OnlyAddsOutputs (s.deriveStep v c h hd) := by
  have hresp := respond (bodylenResponse v hd) s
  obtain ⟨e, -, heq⟩ | ⟨n, -, -, heq⟩ | ⟨n, -, -, heq⟩ := deriveStep_cases v c h hd s <;> rw [heq]
  · exact hresp.trans (sendReturn c _ _)
  · exact hresp.trans (toStep c h _ _)
  · exact hresp.trans (toStep_emit c h _ _ _)

theorem validateStep (v : Variant) (c : Caller) (hd bd : ByteSeq) (s : State) :
    s.OnlyAddsOutputs (s.validateStep v c hd bd) := by
  obtain ⟨o, heq⟩ := validateStep_cases v c hd bd s
  exact heq ▸ (respond _ s).trans (sendReturn c o _)

/-- R66: the next local action of the SEND in flight; while a call is outstanding there is none. -/
theorem advance (v : Variant) (c : Caller) (h : TransportHandle) (stage : SendStep) (s : State) :
    s.OnlyAddsOutputs (s.advance v c h stage) := by
  match stage with
  | .encoding p => exact encodeStep c h p s
  | .writing f => exact refl s
  | .readingHeader none => exact refl s
  | .readingHeader (some hd) => exact deriveStep v c h hd s
  | .readingBody hd 0 => exact toStep c h _ s
  | .readingBody hd (n + 1) => exact refl s
  | .validating hd bd => exact validateStep v c hd bd s

theorem proceed (h : s.proceed = .next t) : s.OnlyAddsOutputs t := by
  obtain ⟨-, rfl⟩ | ⟨c, hd, stage, cfg, -, -, rfl⟩ := proceed_next h
  · exact refl _
  · exact advance _ c hd stage s

theorem writeAnswered {answer : WriteAnswer} (h : s.writeAnswered answer = .next t) : s.OnlyAddsOutputs t := by
  obtain ⟨c, hd, f, -, ⟨cause, rfl⟩ | ⟨cfg, -, -, rfl⟩⟩ := writeAnswered_next h
  · exact sendReturn c _ s
  · exact toStep_emit c hd _ _ s

theorem readAnswered {answer : ReadAnswer} (h : s.readAnswered answer = .next t) : s.OnlyAddsOutputs t := by
  obtain ⟨c, hd, stage, -, ⟨part, cause, rfl⟩ | ⟨cfg, bytes, -, -, -, -, rfl⟩ |
    ⟨header, n, bytes, -, -, -, -, rfl⟩⟩ := readAnswered_next h
  · exact sendReturn c _ s
  · exact toStep c hd _ s
  · exact toStep c hd _ s

/-- No event takes back an output or touches the rest of the schedule. -/
theorem deliver {i : Input} (h : s.deliver i = .next t) : s.OnlyAddsOutputs t := by
  cases i with
  | reset => cases h; exact refl s
  | construct cfg => exact construct h
  | request r => exact exec h
  | access k f => exact accessResult h
  | openLink link answer => exact openLink h
  | send c p => exact startSend h
  | grant k => exact grant h
  | proceed => exact proceed h
  | writeAnswer answer => exact writeAnswered h
  | readAnswer answer => exact readAnswered h
  | closeLink answer => exact closeLink h

end State.OnlyAddsOutputs

/-- Settles O41: without an event nothing moves; with one, it is taken off the schedule and only adds outputs. -/
theorem outputsAreNeverTakenBack : Obligations.OutputsAreNeverTakenBack := by
  intro s t h
  obtain ⟨hnil, rfl⟩ | ⟨i, rest, -, hdeliver⟩ := step_next h
  · exact ⟨List.prefix_rfl, by rw [hnil, List.tail_nil]⟩
  · exact State.OnlyAddsOutputs.deliver hdeliver

end Sys2Proof.Machine

/-! PROOFS. The encodings: the operation codes (O12, O27, O28), the status codes (O29), the text of a request (O31, O32), the
operand lengths before anything else (O14), and the length byte of a frame (O30). -/

namespace Sys2Proof.Machine

/-! ## The operation codes (R39, R40) -/

/-- The eight operation codes are all there are. -/
theorem op_cases : ∀ op : BitVec 3, op = 0b000#3 ∨ op = 0b001#3 ∨ op = 0b010#3 ∨ op = 0b011#3 ∨ op = 0b100#3 ∨
    op = 0b101#3 ∨ op = 0b110#3 ∨ op = 0b111#3 := by decide

/-- Every operation code is some instruction's. -/
theorem exists_opOf_eq (op : BitVec 3) : ∃ i, opOf i = op := by
  obtain rfl | rfl | rfl | rfl | rfl | rfl | rfl | rfl := op_cases op
  exacts [⟨.xorfold [] [], rfl⟩, ⟨.chkvalid [] [], rfl⟩, ⟨.encode [] [], rfl⟩, ⟨.bodylen [] [], rfl⟩,
    ⟨.decode [] [], rfl⟩, ⟨.reserved101 [] [], rfl⟩, ⟨.reserved110 [] [], rfl⟩, ⟨.reserved111 [] [], rfl⟩]

/-- Decoding undoes encoding: the code selects the constructor, and both operands are carried over. -/
theorem decode_encode (i : Instr) : decode (encode i) = i := by
  cases i <;> rfl

/-- Encoding undoes decoding: decoding keeps the code and both operands. -/
theorem encode_decode (r : Request) : encode (decode r) = r := by
  obtain ⟨i, hi⟩ := exists_opOf_eq r.op
  obtain ⟨hop, ha, hb⟩ := Laws.DecodeByCode.of_code i r hi.symm
  simp [encode, hop, ha, hb, hi]

/-- Settles O27: `decode_encode` and `encode_decode`. -/
theorem decodeAndEncodeAgree : Obligations.DecodeAndEncodeAgree := ⟨decode_encode, encode_decode⟩

/-- Settles O28: the decoder computes each of the eight words. -/
theorem opcodeWordsDecode : Obligations.OpcodeWordsDecode := by
  unfold Obligations.OpcodeWordsDecode
  decide

/-- R74: a response that hands over no Result is added to the outputs, and that is all. -/
theorem State.respond_of_handedResults_nil {r : Response} (h : r.handedResults = []) (s : State) :
    s.respond r = { s with trace := s.trace ++ [.response r] } := by
  simp [State.respond, h]

/-- Settles O12: each of the three codes decodes to its instruction, whose response is `reservedResponse`. -/
theorem reservedCodesAnswerIllegalOperation : Obligations.ReservedCodesAnswerIllegalOperation := by
  intro a b s cfg hcfg
  have hexec {i : Instr} (hi : blockAnswer cfg.variant i = reservedResponse) :
      exec i s = .next { s with trace := s.trace ++ [.response reservedResponse] } := by
    rw [exec_some hcfg, hi, State.respond_of_handedResults_nil rfl]
  intro oi hoi
  simp only [List.mem_cons, List.not_mem_nil, or_false] at hoi
  obtain rfl | rfl | rfl := hoi <;> exact ⟨rfl, hexec rfl⟩

/-! ## The status codes (R38) -/

/-- A status is named by its own code. -/
theorem ofCode_code (st : Status) : Status.ofCode st.code = some st := by
  cases st <;> rfl

/-- A code that names a status is that status's own. -/
theorem code_of_mem_ofCode : ∀ c : BitVec 4, ∀ st ∈ Status.ofCode c, st.code = c := by decide

/-- The codes R38 reserves, and no others, name nothing. -/
theorem ofCode_eq_none_iff : ∀ c : BitVec 4, Status.ofCode c = none ↔ (5 ≤ c.toNat ∧ c.toNat ≤ 7) ∨ 12 ≤ c.toNat := by
  decide

/-- Settles O29: the table is read off row by row, and a code and the status it names determine each other. -/
theorem statusCodesNameStatuses : Obligations.StatusCodesNameStatuses := by
  refine ⟨by decide, fun e te w part rc => ⟨?_, rfl⟩, ⟨rfl, fun _ => rfl⟩, fun c st => ⟨?_, ?_⟩, ofCode_eq_none_iff⟩
  · intro ec hec
    simp only [List.mem_cons, List.not_mem_nil, or_false] at hec
    obtain rfl | rfl | rfl | rfl | rfl | rfl | rfl | rfl := hec <;> exact ⟨rfl, rfl⟩
  · exact code_of_mem_ofCode c st
  · rintro rfl
    exact ofCode_code st

/-! ## The text of a byte and of a sequence (R48) -/

/-- A hexadecimal digit spells the number it was printed from. -/
theorem hexValue_hexDigit : ∀ n < 16, hexValue (hexDigit n) = some n := by decide

/-- No hexadecimal digit is the closing bracket, so `[]` is told from a sequence that has a byte. -/
theorem hexDigit_ne_bracket : ∀ n < 16, hexDigit n ≠ ']' := by decide

/-- The two digits of a byte spell that byte. -/
theorem readByte_hexDigits (b : Byte) : readByte (hexDigit (b.toNat / 16)) (hexDigit (b.toNat % 16)) = some b := by
  have hhi : hexValue (hexDigit (b.toNat / 16)) = some (b.toNat / 16) := hexValue_hexDigit _ (by omega)
  have hlo : hexValue (hexDigit (b.toNat % 16)) = some (b.toNat % 16) := hexValue_hexDigit _ (by omega)
  simp [readByte, hhi, hlo, Nat.div_add_mod']

/-- The bytes of a sequence that is not empty read back, and what follows the closing bracket is left. -/
theorem readSeqBody_seqBodyText (b : Byte) (s : ByteSeq) (rest : Text) :
    readSeqBody (seqBodyText (b :: s) ++ rest) = some (b :: s, rest) := by
  induction s generalizing b with
  | nil => simp [seqBodyText, byteText, readSeqBody, readByte_hexDigits]
  | cons c s ih => simp [seqBodyText, byteText, readSeqBody, readByte_hexDigits, ih]

/-- R48: a sequence reads back, empty or not, and what follows it is left. -/
theorem readSeq_seqText (s : ByteSeq) (rest : Text) : readSeq (seqText s ++ rest) = some (s, rest) := by
  cases s with
  | nil => rfl
  | cons b s =>
    rw [← readSeqBody_seqBodyText b s rest]
    have hne : hexDigit (b.toNat / 16) ≠ ']' := hexDigit_ne_bracket _ (by omega)
    cases s <;> simp [seqText, seqBodyText, byteText, readSeq, hne]

/-! ## The text of a request (R48) -/

/-- R39, R48: the operation at the front of a text is the one that spelled it: no spelling, with the space after it, begins
another, so the reader's first match is the only one. -/
theorem readOp_opText (op : BitVec 3) (rest : Text) : readOp (opText op ++ ' ' :: rest) = some (op, rest) := by
  obtain rfl | rfl | rfl | rfl | rfl | rfl | rfl | rfl := op_cases op <;> rfl

/-- Spaces before a character that is none are skipped, however many there are. -/
theorem skipSpaces_replicate {c : Char} (hc : c ≠ ' ') (m : Nat) (rest : Text) :
    skipSpaces (List.replicate m ' ' ++ c :: rest) = c :: rest := by
  simp [skipSpaces, hc]

/-- R48: an operand's field, `a=` or `b=` and a sequence, reads as that sequence, however many spaces stand before it. -/
theorem readField {c : Char} (hc : c ≠ ' ') (m : Nat) (s : ByteSeq) (rest : Text) :
    (strip [c, '='] (skipSpaces (List.replicate m ' ' ++ c :: '=' :: (seqText s ++ rest)))).bind readSeq =
      some (s, rest) := by
  rw [skipSpaces_replicate hc]
  simp [strip, readSeq_seqText]

/-- R48: what follows operand `a` is read as operand `b`. -/
theorem readRequest_operandA (op : BitVec 3) (a : ByteSeq) (m : Nat) (rest : Text) :
    readRequest (opText op ++ List.replicate (m + 1) ' ' ++ ['a', '='] ++ seqText a ++ rest) =
      readOperandB op a rest := by
  have hop := readOp_opText op (List.replicate m ' ' ++ 'a' :: '=' :: (seqText a ++ rest))
  have ha := readField (c := 'a') (by decide) m a rest
  simp [readRequest, List.replicate_succ, hop, ha]

/-- R48: operand `b` reads back, however many spaces stand before it. -/
theorem readOperandB_field (op : BitVec 3) (a b : ByteSeq) (n : Nat) :
    readOperandB op a (List.replicate (n + 1) ' ' ++ ['b', '='] ++ seqText b) = .ok { op := op, a := a, b := b } := by
  have hb := readField (c := 'b') (by decide) n b []
  simp only [List.append_nil] at hb
  simp [readOperandB, List.replicate_succ, hb]

/-- Settles O32: after operand `a` there is nothing, or operand `b`. -/
theorem omittedOperandReadsAsEmpty : Obligations.OmittedOperandReadsAsEmpty := by
  intro op a b m n
  have homitted := readRequest_operandA op a m []
  have hgiven := readRequest_operandA op a m (List.replicate (n + 1) ' ' ++ ['b', '='] ++ seqText b)
  rw [readOperandB_field] at hgiven
  exact ⟨by simpa [readOperandB] using homitted, by simpa using hgiven⟩

/-- Settles O31: a printed request is one of the two forms of O32, with one space before each operand. -/
theorem requestTextReadsBack : Obligations.RequestTextReadsBack := by
  rintro ⟨op, a, b⟩
  obtain ⟨homitted, hgiven⟩ := omittedOperandReadsAsEmpty op a b 0 0
  by_cases hb : b = [] ∧ op ≠ 0b100#3
  · obtain ⟨rfl, hop⟩ := hb
    simpa [requestText, hop] using homitted
  · simpa [requestText, hb] using hgiven

/-! ## What an operation raises (R41, R83) -/

/-- R14: an operation that ends in an error is answered with that error and no value. -/
theorem ofOutcome_of_error {α : Type} {wrap : α → Option Value} {o : Except BlockError α} {e : BlockError}
    (h : o = .error e) : Response.ofOutcome wrap o = { status := e.status, value := none } := by
  rw [h, ofOutcome_error]

/-- R14: a status other than OK is that of the error the operation ended in. -/
theorem exists_error_of_status_ne_ok {α : Type} {wrap : α → Option Value} {o : Except BlockError α}
    (h : (Response.ofOutcome wrap o).status ≠ .ok) :
    ∃ e, o = .error e ∧ (Response.ofOutcome wrap o).status = e.status := by
  cases o with
  | ok v => exact absurd rfl h
  | error e => exact ⟨e, rfl, rfl⟩

/-- R83: a guarded operation raises the guard's error where the guard fails, and what the rest raises where it holds. -/
theorem guard_error_iff {α : Type} {p : Prop} [Decidable p] {o : Except BlockError α} {e e' : BlockError} :
    (if p then o else .error e') = .error e ↔ ¬ p ∧ e = e' ∨ p ∧ o = .error e := by
  by_cases hp : p <;> simp [hp, @eq_comm _ e]

/-- R41, R50: XORFOLD raises only for its length. -/
theorem xorfoldOp_error_iff {a : ByteSeq} {e : BlockError} :
    xorfoldOp a = .error e ↔ 261 < a.length ∧ e = .lengthError := by
  simp [xorfoldOp, guard_error_iff, Config.maxOperand]

/-- R41, R51: CHKVALID raises for its length first, then for the checksum. -/
theorem chkvalidOp_error_iff {a : ByteSeq} {e : BlockError} :
    chkvalidOp a = .error e ↔
      (a.length < 1 ∨ 261 < a.length) ∧ e = .lengthError ∨
      ¬ (a.length < 1 ∨ 261 < a.length) ∧ checksumHolds a = false ∧ e = .checksumMismatch := by
  simp [chkvalidOp, guard_error_iff, Config.maxOperand, Nat.one_le_iff_ne_zero, imp_iff_not_or]

/-- R41, R53: ENCODE raises only for its length. -/
theorem encodeOp_error_iff {a : ByteSeq} {e : BlockError} :
    encodeOp a = .error e ↔ 253 < a.length ∧ e = .invalidPayloadLength := by
  simp [encodeOp, guard_error_iff, Config.maxPayload]

/-- R8: a whole header has a byte 4. -/
theorem exists_byte4 {v : Variant} {hd : ByteSeq} (hl : hd.length = hdrLen v) : ∃ len, hd[4]? = some len := by
  have hlt : 4 < hd.length := by cases v <;> simp [hl, hdrLen]
  exact ⟨hd[4], List.getElem?_eq_getElem hlt⟩

/-- R56: of a whole header, BODYLEN reads byte 4 only. -/
theorem bodylenOp_of_byte4 {v : Variant} {hd : ByteSeq} {len : Byte} (hl : hd.length = hdrLen v)
    (h4 : hd[4]? = some len) : bodylenOp v hd = bodyLengthOf v len := by
  simp [bodylenOp, hl, h4]

/-- R41, R56: BODYLEN answers LengthError to a header of another length. -/
theorem bodylenOp_of_length_ne {v : Variant} {hd : ByteSeq} (hl : hd.length ≠ hdrLen v) :
    bodylenOp v hd = .error .lengthError := by
  simp [bodylenOp, hl]

/-- R47: a length byte tells no body length only when it is `0x00` in variant B. -/
theorem bodyLengthOf_error_iff {v : Variant} {len : Byte} {e : BlockError} :
    bodyLengthOf v len = .error e ↔ v = .B ∧ len = 0x00#8 ∧ e = .lengthError := by
  cases v with
  | A => simp [bodyLengthOf]
  | B => by_cases h0 : len = 0x00#8 <;> simp [bodyLengthOf, h0, @eq_comm _ e]

/-- R41, R56: BODYLEN raises for its length, and in variant B for a byte 4 of `0x00`. -/
theorem bodylenOp_error_iff {v : Variant} {hd : ByteSeq} {e : BlockError} :
    bodylenOp v hd = .error e ↔ (hd.length ≠ hdrLen v ∨ v = .B ∧ hd[4]? = some 0x00#8) ∧ e = .lengthError := by
  by_cases hl : hd.length = hdrLen v
  · obtain ⟨len, h4⟩ := exists_byte4 hl
    rw [bodylenOp_of_byte4 hl h4, bodyLengthOf_error_iff]
    simp [hl, h4, and_assoc]
  · simp [bodylenOp_of_length_ne hl, hl, @eq_comm _ e]

/-- R41, R57: DECODE raises for its lengths first, then for the checksum. -/
theorem decodeOp_error_iff {v : Variant} {a b : ByteSeq} {e : BlockError} :
    decodeOp v a b = .error e ↔
      (a.length ≠ hdrLen v ∨ 255 < b.length) ∧ e = .lengthError ∨
      ¬ (a.length ≠ hdrLen v ∨ 255 < b.length) ∧ checksumHolds (a ++ b) = false ∧ e = .checksumMismatch := by
  simp [decodeOp, guard_error_iff, Config.maxBodyOperand, imp_iff_not_or]

/-- R41: outside its lengths every operation answers the error R41 names and no value. -/
theorem blockAnswer_of_operandsViolate {v : Variant} {i : Instr} (hviol : operandsViolate v i) :
    blockAnswer v i = { status := violationStatus i, value := none } := by
  cases i with
  | xorfold a b => exact ofOutcome_of_error (xorfoldOp_error_iff.2 ⟨hviol, rfl⟩)
  | chkvalid a b => exact ofOutcome_of_error (chkvalidOp_error_iff.2 (.inl ⟨hviol, rfl⟩))
  | encode a b => exact ofOutcome_of_error (encodeOp_error_iff.2 ⟨hviol, rfl⟩)
  | bodylen a b => exact ofOutcome_of_error (bodylenOp_error_iff.2 ⟨.inl hviol, rfl⟩)
  | decode a b => exact ofOutcome_of_error (decodeOp_error_iff.2 (.inl ⟨hviol, rfl⟩))
  | reserved101 a b | reserved110 a b | reserved111 a b => exact hviol.elim

/-- R37: what the block answers on a configured client is `blockAnswer`, since the response shows in the outputs. -/
theorem eq_blockAnswer_of_answers {i : Instr} {s : State} {r : Response} {cfg : Configuration}
    (hcfg : s.config = some cfg) (h : Answers i s r) : r = blockAnswer cfg.variant i := by
  rw [Answers, exec_some hcfg, Host.Outcome.next.injEq] at h
  simpa [eq_comm] using congrArg State.trace h

/-- Settles O14: outside the lengths the answer is the violation's, and within them each operation's `_error_iff` lemma leaves
only its own condition. -/
theorem operandLengthsAreCheckedFirst : Obligations.OperandLengthsAreCheckedFirst := by
  intro i s cfg hcfg
  refine ⟨fun hviol => blockAnswer_of_operandsViolate hviol ▸ answers_blockAnswer hcfg i, fun hfit r hr hne => ?_⟩
  obtain rfl := eq_blockAnswer_of_answers hcfg hr
  cases i with
  | xorfold a b =>
    obtain ⟨e, he, -⟩ := exists_error_of_status_ne_ok hne
    exact absurd (xorfoldOp_error_iff.1 he).1 hfit
  | chkvalid a b =>
    obtain ⟨e, he, hst⟩ := exists_error_of_status_ne_ok hne
    obtain ⟨hviol, -⟩ | ⟨-, -, rfl⟩ := chkvalidOp_error_iff.1 he
    · exact absurd hviol hfit
    · exact .inl ⟨hst, a, b, .inl rfl⟩
  | encode a b =>
    obtain ⟨e, he, -⟩ := exists_error_of_status_ne_ok hne
    exact absurd (encodeOp_error_iff.1 he).1 hfit
  | bodylen a b =>
    obtain ⟨e, he, hst⟩ := exists_error_of_status_ne_ok hne
    obtain ⟨hviol | ⟨hB, h4⟩, rfl⟩ := bodylenOp_error_iff.1 he
    · exact absurd hviol hfit
    · exact .inr (.inl ⟨hst, hB, a, b, rfl, h4⟩)
  | decode a b =>
    obtain ⟨e, he, hst⟩ := exists_error_of_status_ne_ok hne
    obtain ⟨hviol, -⟩ | ⟨-, -, rfl⟩ := decodeOp_error_iff.1 he
    · exact absurd hviol hfit
    · exact .inl ⟨hst, a, b, .inr rfl⟩
  | reserved101 a b => exact .inr (.inr ⟨rfl, a, b, .inl rfl⟩)
  | reserved110 a b => exact .inr (.inr ⟨rfl, a, b, .inr (.inl rfl)⟩)
  | reserved111 a b => exact .inr (.inr ⟨rfl, a, b, .inr (.inr rfl)⟩)

/-! ## The length byte of a frame (R42, R44 to R46) -/

/-- R42: preamble, length, control and checksum are eight bytes around the payload. -/
theorem commandFrame_length (p : ByteSeq) : (commandFrame p).length = p.length + 8 := by
  simp [commandFrame, commandBody, Config.preamble]

/-- R42: byte 5 of a command frame counts the payload, the control byte and the checksum. -/
theorem commandFrame_byte5 (p : ByteSeq) : (commandFrame p)[5]? = some (byteOf (p.length + 2)) := by
  simp [commandFrame, commandBody, Config.preamble]

/-- R47: a body length and the header's own make up the five bytes up to the length byte and what that byte counts. -/
theorem hdrLen_add_bodyLength {v : Variant} {len n : Byte} (h : bodyLengthOf v len = .ok n) :
    hdrLen v + n.toNat = 5 + len.toNat := by
  cases v with
  | A =>
    cases h
    rfl
  | B =>
    by_cases h0 : len = 0x00#8
    · simp [bodyLengthOf, h0] at h
    · have hpos : 0 < len.toNat := Nat.pos_of_ne_zero fun hz => h0 (BitVec.eq_of_toNat_eq hz)
      have hn : byteOf (len.toNat - 1) = n := by simpa [bodyLengthOf, h0] using h
      rw [← hn, byteOf, BitVec.toNat_ofNat, hdrLen]
      omega

/-- R46: where byte 4 tells a body length, it tells the whole frame's length. -/
theorem responseFrameLength_of_byte4 {v : Variant} {hd : ByteSeq} {len n : Byte} (h4 : hd[4]? = some len)
    (h : bodyLengthOf v len = .ok n) : responseFrameLength v hd = some (5 + len.toNat) := by
  cases v with
  | A => simp only [responseFrameLength, h4]
  | B =>
    have h0 : len ≠ 0x00#8 := by
      rintro rfl
      cases h
    simp only [responseFrameLength, h4]
    exact if_neg h0

/-- R44 to R46: where BODYLEN has a number, the length the header tells is that of header and body together. -/
theorem responseFrameLength_of_bodylenOp {v : Variant} {hd : ByteSeq} {n : Byte} (h : bodylenOp v hd = .ok n) :
    responseFrameLength v hd = some (hd.length + n.toNat) := by
  by_cases hl : hd.length = hdrLen v
  · obtain ⟨len, h4⟩ := exists_byte4 hl
    rw [bodylenOp_of_byte4 hl h4] at h
    rw [responseFrameLength_of_byte4 h4 h, hl, hdrLen_add_bodyLength h]
  · rw [bodylenOp_of_length_ne hl] at h
    cases h

/-- Settles O30: byte 5 of a command frame is two more than the payload's length, and a frame has eight bytes more; the
response side is `responseFrameLength_of_bodylenOp`. -/
theorem frameLengthIsToldByItsLengthByte : Obligations.FrameLengthIsToldByItsLengthByte := by
  refine ⟨fun p hp => ?_, fun v hd n h => responseFrameLength_of_bodylenOp h⟩
  have hlen : (byteOf (p.length + 2)).toNat = p.length + 2 := by
    rw [byteOf, BitVec.toNat_ofNat, Nat.mod_eq_of_lt (by omega)]
  rw [commandFrameLength, commandFrame_byte5, Option.map_some, hlen, commandFrame_length]

end Sys2Proof.Machine

/-! PROOFS. The XOR-fold's algebra (O2), XORFOLD's and CHKVALID's answers (O1, O3, O4), and the damage the checksum detects
(O5, O6). -/

namespace Sys2Proof.Machine

/-! ## The algebra of the XOR-fold (R13, R50) -/

theorem xorfold_singleton (c : Byte) : xorfold [c] = c := by
  rw [xorfold_cons, xorfold_nil, BitVec.xor_zero]

/-- R50: exclusive-OR commutes, so the order of the bytes does not matter. -/
theorem xorfold_perm {s t : ByteSeq} (h : s.Perm t) : xorfold s = xorfold t :=
  h.foldl_eq (rcomm := ⟨fun x c d => by ac_rfl⟩) 0x00

/-- R50: appending the fold makes a sequence that folds to zero. -/
theorem xorfold_concat_xorfold (s : ByteSeq) : xorfold (s ++ [xorfold s]) = 0#8 := by
  rw [xorfold_concat, BitVec.xor_self]

/-- R50: two copies of a byte cancel, so an even number of copies does. -/
theorem xorfold_replicate_of_even {n : Nat} (hn : n % 2 = 0) (c : Byte) : xorfold (List.replicate n c) = 0#8 := by
  obtain ⟨m, rfl⟩ := Nat.dvd_of_mod_eq_zero hn
  induction m with
  | zero => rfl
  | succ m ih =>
    calc xorfold (List.replicate (2 * (m + 1)) c)
        = c ^^^ (c ^^^ xorfold (List.replicate (2 * m) c)) := by
          rw [Nat.mul_succ, List.replicate_succ, List.replicate_succ, xorfold_cons, xorfold_cons]
      _ = 0#8 := by rw [ih (Nat.mul_mod_right 2 m), BitVec.xor_zero, BitVec.xor_self]

/-- A sequence folds to the fold of its other bytes and the fold of its copies of `c`. -/
theorem xorfold_eq_filter_xor_replicate (s : ByteSeq) (c : Byte) :
    xorfold s = xorfold (s.filter (fun x => x != c)) ^^^ xorfold (List.replicate (s.count c) c) := by
  have hcopies : s.filter (fun x => !(x != c)) = List.replicate (s.count c) c := by
    simpa [bne] using List.filter_beq (l := s) c
  rw [← hcopies, ← xorfold_append]
  exact xorfold_perm (List.filter_append_perm _ s).symm

/-- R52: flip masks, one per byte, add their own fold to the fold of the sequence. -/
theorem xorfold_zipWith_xor {f masks : ByteSeq} (hlen : masks.length = f.length) :
    xorfold (List.zipWith (fun x m => x ^^^ m) f masks) = xorfold f ^^^ xorfold masks := by
  induction f generalizing masks with
  | nil =>
    obtain rfl := List.length_eq_zero_iff.1 hlen
    rfl
  | cons x f ih =>
    obtain ⟨m, masks, rfl⟩ := List.exists_cons_of_length_eq_add_one hlen
    rw [List.zipWith_cons_cons, xorfold_cons, ih (Nat.succ.inj hlen), xorfold_cons, xorfold_cons]
    ac_rfl

/-- R52: flipping one byte by a mask flips the fold by that mask. -/
theorem xorfold_set_xor {f : ByteSeq} {i : Nat} {x : Byte} (hx : f[i]? = some x) (m : Byte) :
    xorfold (f.set i (x ^^^ m)) = xorfold f ^^^ m := by
  induction f generalizing i with
  | nil => cases hx
  | cons y f ih =>
    cases i with
    | zero =>
      cases hx
      rw [List.set_cons_zero, xorfold_cons, xorfold_cons]
      ac_rfl
    | succ i =>
      rw [List.set_cons_succ, xorfold_cons, ih hx, xorfold_cons, BitVec.xor_assoc]

/-- A mask of one bit is not zero. -/
theorem oneBit_ne_zero : ∀ k < 8, 1#8 <<< k ≠ 0#8 := by decide

/-- R52: flipping one bit of a sequence that folds to zero leaves one that does not. -/
theorem xorfold_flipBit_ne_zero {f : ByteSeq} {i k : Nat} {x : Byte} (hx : f[i]? = some x) (hk : k < 8)
    (hf : xorfold f = 0#8) : xorfold (f.set i (x ^^^ (1#8 <<< k))) ≠ 0#8 := by
  rw [xorfold_set_xor hx, hf, BitVec.zero_xor]
  exact oneBit_ne_zero k hk

/-- Settles O2: the copies of a byte fold apart from the other bytes, and an even number of them folds to zero. -/
theorem xorfoldIgnoresOrderAndCancelsPairs : Obligations.XorfoldIgnoresOrderAndCancelsPairs := by
  refine ⟨fun _ _ => xorfold_perm, fun s c heven => ?_, xorfold_concat_xorfold, xorfold_singleton⟩
  rw [xorfold_eq_filter_xor_replicate s c, xorfold_replicate_of_even heven, BitVec.xor_zero]

/-! ## What XORFOLD and CHKVALID answer (R50, R51) -/

/-- R74: on a configured client, an answer that hands over no Result is added to the outputs, and that is all. -/
theorem exec_of_handedResults_nil {s : State} {cfg : Configuration} {i : Instr} {r : Response}
    (hcfg : s.config = some cfg) (hr : blockAnswer cfg.variant i = r) (hnil : r.handedResults = []) :
    exec i s = .next { s with trace := s.trace ++ [.response r] } := by
  rw [exec_some hcfg, hr, State.respond_of_handedResults_nil hnil]

/-- R50: XORFOLD refuses an over-long sequence, and of another answers the fold. -/
theorem xorfoldResponse_eq (a : ByteSeq) :
    xorfoldResponse a =
      if a.length ≤ 261 then { status := .ok, value := some (.byte (xorfold a)) }
      else { status := .lengthError, value := none } := by
  by_cases h : a.length ≤ 261 <;> simp [xorfoldResponse, xorfoldOp, Config.maxOperand, h, BlockError.status]

/-- Settles O1: the answer is `xorfoldResponse`, and the fold's two equations are the model's own laws. -/
theorem xorfoldAnswersTheFold : Obligations.XorfoldAnswersTheFold := by
  refine ⟨fun a b s cfg hcfg => ⟨rfl, ?_⟩, xorfold_nil, xorfold_concat⟩
  refine exec_of_handedResults_nil hcfg (xorfoldResponse_eq a) ?_
  split <;> rfl

/-- R51: within its length limits CHKVALID tells whether the whole frame folds to zero. -/
theorem chkvalidResponse_of_fits {a : ByteSeq} (hpos : 1 ≤ a.length) (hle : a.length ≤ 261) :
    chkvalidResponse a = { status := if xorfold a = 0#8 then .ok else .checksumMismatch, value := none } := by
  have hfits : chkvalidFits a = true := (chkvalidFits_iff a).2 ⟨hpos, hle⟩
  have hne : a ≠ [] := List.ne_nil_of_length_pos hpos
  by_cases hfold : xorfold a = 0#8 <;>
    simp only [chkvalidResponse, chkvalidOp, hfits, checksumHolds_iff] <;> simp [hne, hfold, BlockError.status]

/-- R51: CHKVALID refuses an empty or over-long frame, and of another tells whether it folds to zero. -/
theorem chkvalidResponse_eq (a : ByteSeq) :
    chkvalidResponse a =
      { status := if a = [] ∨ 261 < a.length then .lengthError
                  else if xorfold a = 0#8 then .ok else .checksumMismatch
        value := none } := by
  by_cases hviol : a = [] ∨ 261 < a.length
  · have hop : chkvalidOp a = .error .lengthError := chkvalidOp_error_iff.2 (.inl ⟨by simpa using hviol, rfl⟩)
    rw [if_pos hviol]
    exact ofOutcome_of_error hop
  · obtain ⟨hne, hle⟩ := not_or.1 hviol
    rw [if_neg hviol, chkvalidResponse_of_fits (List.length_pos_iff.2 hne) (Nat.not_lt.1 hle)]

/-- R51: the last byte is the fold of the bytes before it exactly when the whole frame folds to zero. -/
theorem getLast?_eq_xorfold_dropLast_iff {a : ByteSeq} (hne : a ≠ []) :
    a.getLast? = some (xorfold a.dropLast) ↔ xorfold a = 0#8 := by
  obtain ⟨d, c, rfl⟩ := List.eq_nil_or_concat a |>.resolve_left hne
  rw [List.concat_eq_append, List.getLast?_concat, List.dropLast_concat, xorfold_concat, xor_eq_zero_iff,
    Option.some_inj, eq_comm]

/-- Settles O3: the answer is `chkvalidResponse`, whose zero fold is the comparison of the last byte. -/
theorem chkvalidComparesTheLastByte : Obligations.ChkvalidComparesTheLastByte := by
  intro a b s cfg hcfg
  refine ⟨rfl, exec_of_handedResults_nil hcfg ((chkvalidResponse_eq a).trans ?_) rfl⟩
  by_cases hne : a = []
  · simp [hne]
  · simp only [getLast?_eq_xorfold_dropLast_iff hne]

/-- Settles O4: the answer is `chkvalidResponse` within its length limits. -/
theorem chkvalidPassesExactlyOnZeroFold : Obligations.ChkvalidPassesExactlyOnZeroFold :=
  fun a b _ _ hcfg hpos hle => chkvalidResponse_of_fits hpos hle ▸ answers_blockAnswer hcfg (.chkvalid a b)

/-! ## The damage the checksum detects (R52) -/

/-- R37, R93: whatever is answered, the client is configured and the response is `blockAnswer`. -/
theorem exists_config_of_answers {i : Instr} {s : State} {r : Response} (h : Answers i s r) :
    ∃ cfg, s.config = some cfg ∧ r = blockAnswer cfg.variant i := by
  obtain ⟨cfg, hcfg, -⟩ := exec_next h
  exact ⟨cfg, hcfg, eq_blockAnswer_of_answers hcfg h⟩

/-- R51: what it takes for a frame to pass CHKVALID. -/
theorem answers_chkvalid_ok_iff {f b : ByteSeq} {s : State} :
    Answers (.chkvalid f b) s { status := .ok, value := none } ↔
      (∃ cfg, s.config = some cfg) ∧ 1 ≤ f.length ∧ f.length ≤ 261 ∧ xorfold f = 0#8 := by
  constructor
  · intro h
    obtain ⟨cfg, hcfg, hr⟩ := exists_config_of_answers h
    have hst := congrArg Response.status (hr.trans (chkvalidResponse_eq f))
    by_cases hviol : f = [] ∨ 261 < f.length
    · simp [hviol] at hst
    · obtain ⟨hne, hle⟩ := not_or.1 hviol
      refine ⟨⟨cfg, hcfg⟩, List.length_pos_iff.2 hne, Nat.not_lt.1 hle, ?_⟩
      by_contra hfold
      simp [hviol, hfold] at hst
  · rintro ⟨⟨cfg, hcfg⟩, hpos, hle, hfold⟩
    simpa [hfold] using chkvalidPassesExactlyOnZeroFold f b s cfg hcfg hpos hle

/-- Settles O5: the damage keeps the length and adds the fold of the masks to a fold of zero. -/
theorem damageIsMissedExactlyWhenMasksCancel : Obligations.DamageIsMissedExactlyWhenMasksCancel := by
  intro f masks b s hpass hlen
  obtain ⟨hcfg, hpos, hle, hfold⟩ := answers_chkvalid_ok_iff.1 hpass
  rw [answers_chkvalid_ok_iff, xorfold_zipWith_xor hlen, hfold, BitVec.zero_xor, List.length_zipWith, hlen, Nat.min_self]
  simp [hcfg, hpos, hle]

/-- R52: a frame within the length limits that does not fold to zero does not pass CHKVALID. -/
theorem answers_chkvalid_checksumMismatch {f : ByteSeq} {s : State} {cfg : Configuration} (hcfg : s.config = some cfg)
    (hpos : 1 ≤ f.length) (hle : f.length ≤ 261) (hfold : xorfold f ≠ 0#8) (b : ByteSeq) :
    Answers (.chkvalid f b) s { status := .checksumMismatch, value := none } := by
  simpa [hfold] using chkvalidPassesExactlyOnZeroFold f b s cfg hcfg hpos hle

/-- R57: what it takes for DECODE to hand over a Result. -/
theorem of_answers_decode_ok {hd bd : ByteSeq} {s : State} {r : Result}
    (h : Answers (.decode hd bd) s { status := .ok, value := some (.result r) }) :
    ∃ cfg, s.config = some cfg ∧ hd.length = hdrLen cfg.variant ∧ bd.length ≤ 255 ∧ xorfold (hd ++ bd) = 0#8 := by
  obtain ⟨cfg, hcfg, hr⟩ := exists_config_of_answers h
  have hmem : r ∈ (blockAnswer cfg.variant (.decode hd bd)).handedResults := by simp [← hr]
  obtain ⟨_, _, hi, hop⟩ := handed_by_decode hmem
  cases hi
  obtain ⟨hhd, hbd, hsum, -⟩ := decodeOp_ok hop
  exact ⟨cfg, hcfg, hhd, hbd, ((checksumHolds_iff _).1 hsum).2⟩

/-- R57: a header and body within the length limits whose frame does not fold to zero are not decoded. -/
theorem answers_decode_checksumMismatch {hd bd : ByteSeq} {s : State} {cfg : Configuration}
    (hcfg : s.config = some cfg) (hhd : hd.length = hdrLen cfg.variant) (hbd : bd.length ≤ 255)
    (hfold : xorfold (hd ++ bd) ≠ 0#8) :
    Answers (.decode hd bd) s { status := .checksumMismatch, value := none } := by
  have hsum : checksumHolds (hd ++ bd) = false :=
    Bool.eq_false_iff.2 fun h => hfold ((checksumHolds_iff _).1 h).2
  have hop : decodeOp cfg.variant hd bd = .error .checksumMismatch :=
    decodeOp_error_iff.2 (.inr ⟨by simp [hhd, hbd], hsum, rfl⟩)
  have hr : blockAnswer cfg.variant (.decode hd bd) = { status := .checksumMismatch, value := none } :=
    ofOutcome_of_error hop
  exact hr ▸ answers_blockAnswer hcfg _

/-- Settles O6: the flip keeps every length, and by `xorfold_flipBit_ne_zero` the frame no longer folds to zero, whether the
bit is of the header or of the body. -/
theorem everySingleBitFlipIsDetected : Obligations.EverySingleBitFlipIsDetected := by
  refine ⟨fun f b s i k x hx hk hpass => ?_, fun hd bd s r i k x hk hdec => ?_⟩
  · obtain ⟨⟨cfg, hcfg⟩, hpos, hle, hfold⟩ := answers_chkvalid_ok_iff.1 hpass
    refine answers_chkvalid_checksumMismatch hcfg ?_ ?_ (xorfold_flipBit_ne_zero hx hk hfold) b
    · rwa [List.length_set]
    · rwa [List.length_set]
  · obtain ⟨cfg, hcfg, hhd, hbd, hfold⟩ := of_answers_decode_ok hdec
    constructor
    · intro hx
      have hi : i < hd.length := (List.getElem?_eq_some_iff.1 hx).1
      refine answers_decode_checksumMismatch hcfg (by rwa [List.length_set]) hbd ?_
      rw [← List.set_append_left _ _ hi]
      exact xorfold_flipBit_ne_zero (by rwa [List.getElem?_append_left hi]) hk hfold
    · intro hx
      refine answers_decode_checksumMismatch hcfg hhd (by rwa [List.length_set]) ?_
      have hset := List.set_append_right (s := hd) (t := bd) (hd.length + i) (x ^^^ 1#8 <<< k) (Nat.le_add_right _ _)
      rw [Nat.add_sub_cancel_left] at hset
      rw [← hset]
      exact xorfold_flipBit_ne_zero (by rwa [List.getElem?_append_right (Nat.le_add_right _ _), Nat.add_sub_cancel_left])
        hk hfold

end Sys2Proof.Machine

/-! PROOFS. What ENCODE answers (O7, O9), and what every frame it builds has (O8). -/

namespace Sys2Proof.Machine

/-! ## What ENCODE answers (R53, R55) -/

/-- R53: ENCODE refuses an over-long payload, and of another answers the command frame. -/
theorem encodeResponse_eq (a : ByteSeq) :
    encodeResponse a =
      if a.length ≤ 253 then { status := .ok, value := some (.frame (commandFrame a)) }
      else { status := .invalidPayloadLength, value := none } := by
  by_cases h : a.length ≤ 253 <;> simp [encodeResponse, encodeOp, Config.maxPayload, h, BlockError.status]

/-- Settles O7: the answer is `encodeResponse`, and the statement writes the bytes of `commandFrame` out. -/
theorem encodeBuildsTheCommandFrame : Obligations.EncodeBuildsTheCommandFrame := by
  intro a b s cfg hcfg
  refine ⟨rfl, exec_of_handedResults_nil hcfg (encodeResponse_eq a) ?_⟩
  split <;> rfl

/-- Settles O9: in either state the answer is `encodeResponse a`, and only a DECODE hands over a Result. -/
theorem encodeReadsItsPayloadOnly : Obligations.EncodeReadsItsPayloadOnly := by
  intro a b b' s s' cfg cfg' hcfg hcfg'
  have hnil : (encodeResponse a).handedResults = [] :=
    handedResults_blockAnswer_eq_nil (i := .encode a b) (by simp) cfg.variant
  exact ⟨encodeResponse a, hnil, answers_blockAnswer hcfg (.encode a b), answers_blockAnswer hcfg' (.encode a b')⟩

/-- R53: a frame is answered only by a configured client, to a payload that fits, and it is that payload's. -/
theorem of_answers_encode_ok {p b f : ByteSeq} {s : State}
    (h : Answers (.encode p b) s { status := .ok, value := some (.frame f) }) :
    (∃ cfg, s.config = some cfg) ∧ p.length ≤ 253 ∧ f = commandFrame p := by
  obtain ⟨cfg, hcfg, hr⟩ := exists_config_of_answers h
  have hresp := hr.trans (encodeResponse_eq p)
  by_cases hp : p.length ≤ 253
  · exact ⟨⟨cfg, hcfg⟩, hp, by simpa [hp] using hresp⟩
  · simp [hp] at hresp

/-! ## What every command frame has (R54) -/

/-- R12: the slice between what stands before a sequence and what stands after it is that sequence. -/
theorem slice_append_append (front mid back : ByteSeq) :
    slice (front ++ mid ++ back) front.length (front.length + mid.length) = mid := by
  rw [slice, ← List.length_append, List.take_left, List.drop_left]

/-- R42: the payload stands at byte 7, unchanged. -/
theorem slice_commandFrame_payload (p : ByteSeq) : slice (commandFrame p) 7 (7 + p.length) = p :=
  slice_append_append (Config.preamble ++ [byteOf (p.length + 2)] ++ [Config.controlOut]) p [xorfold (commandBody p)]

/-- R53: the length byte of a payload that fits does not wrap. -/
theorem commandFrame_byte5_toNat {p : ByteSeq} (hp : p.length ≤ 253) :
    ((commandFrame p)[5]?).map BitVec.toNat = some (p.length + 2) := by
  rw [commandFrame_byte5, Option.map_some, byteOf, BitVec.toNat_ofNat, Nat.mod_eq_of_lt (by omega)]

/-- R54: the checksum closes the fold of the bytes before it. -/
theorem xorfold_commandFrame (p : ByteSeq) : xorfold (commandFrame p) = 0#8 :=
  xorfold_concat_xorfold (commandBody p)

/-- R51, R54: the frame of a payload that fits passes CHKVALID on every configured client. -/
theorem answers_chkvalid_commandFrame {p : ByteSeq} {s : State} (hcfg : ∃ cfg, s.config = some cfg)
    (hp : p.length ≤ 253) (b : ByteSeq) :
    Answers (.chkvalid (commandFrame p) b) s { status := .ok, value := none } := by
  have hlen := commandFrame_length p
  exact answers_chkvalid_ok_iff.2 ⟨hcfg, by omega, by omega, xorfold_commandFrame p⟩

/-- Settles O8: the frame answered is `commandFrame p`, which has each property; the answer itself tells that the payload
fits. -/
theorem encodeResultHasItsProperties : Obligations.EncodeResultHasItsProperties := by
  intro p b b' f s _ h
  obtain ⟨hcfg, hp, rfl⟩ := of_answers_encode_ok h
  exact ⟨commandFrame_length p, rfl, commandFrame_byte5_toNat hp, rfl, slice_commandFrame_payload p,
    answers_chkvalid_commandFrame hcfg hp b', xorfold_commandFrame p⟩

end Sys2Proof.Machine

/-! PROOFS. What BODYLEN and DECODE answer (O10, O11), a device-style response decoded (O26), and the accessors of a Result
(O20 to O23). -/

namespace Sys2Proof.Machine

/-! ## What BODYLEN answers (R56) -/

/-- R8: the header lengths, as the statements write them. -/
theorem hdrLen_eq_ite (v : Variant) : hdrLen v = if v = .A then 5 else 6 := by
  cases v <;> rfl

/-- R47: in variant B the body is one byte shorter than the length byte says, unless that byte is `0x00`. -/
theorem bodyLengthOf_B {len : Byte} (h0 : len ≠ 0x00#8) : bodyLengthOf .B len = .ok (len - 1#8) := by
  have hn : byteOf (len.toNat - 1) = len - 1#8 := by
    rw [byteOf]
    bv_omega
  simp [bodyLengthOf, h0, hn]

/-- R56: BODYLEN answers the number its operation ends in. -/
theorem bodylenResponse_of_ok {v : Variant} {hd : ByteSeq} {n : Byte} (h : bodylenOp v hd = .ok n) :
    bodylenResponse v hd = { status := .ok, value := some (.byte n) } := by
  rw [bodylenResponse, h, ofOutcome_ok]

/-- R74: BODYLEN only adds its answer to the outputs. -/
theorem exec_bodylen_ok {s : State} {cfg : Configuration} {a b : ByteSeq} {n : Byte} (hcfg : s.config = some cfg)
    (h : bodylenOp cfg.variant a = .ok n) :
    exec (.bodylen a b) s =
      .next { s with trace := s.trace ++ [.response { status := .ok, value := some (.byte n) }] } :=
  exec_of_handedResults_nil hcfg (bodylenResponse_of_ok h) rfl

/-- R56: BODYLEN's one error is LengthError. -/
theorem exec_bodylen_lengthError {s : State} {cfg : Configuration} {a b : ByteSeq} (hcfg : s.config = some cfg)
    (h : bodylenOp cfg.variant a = .error .lengthError) :
    exec (.bodylen a b) s =
      .next { s with trace := s.trace ++ [.response { status := .lengthError, value := none }] } :=
  exec_of_handedResults_nil hcfg (ofOutcome_of_error h) rfl

/-- Settles O10: a whole header tells what its byte 4 tells, and a header of another length is refused. -/
theorem bodylenDerivesTheBodyLength : Obligations.BodylenDerivesTheBodyLength := by
  intro a b s cfg hcfg
  refine ⟨rfl, fun hA => ⟨?_, fun hlen => ?_⟩, fun hB => ⟨?_, fun hlen => ?_⟩⟩
  · rintro h0 h1 h2 h3 len rfl
    exact exec_bodylen_ok hcfg (hA ▸ rfl)
  · exact exec_bodylen_lengthError hcfg (bodylenOp_of_length_ne (hA ▸ hlen))
  · rintro h0 h1 h2 h3 len ctl rfl
    have hop : bodylenOp cfg.variant [h0, h1, h2, h3, len, ctl] = bodyLengthOf .B len := by rw [hB]; rfl
    split
    next hzero => exact exec_bodylen_lengthError hcfg (hop.trans (bodyLengthOf_error_iff.2 ⟨rfl, hzero, rfl⟩))
    next hpos => exact exec_bodylen_ok hcfg (hop.trans (bodyLengthOf_B hpos))
  · exact exec_bodylen_lengthError hcfg (bodylenOp_of_length_ne (hB ▸ hlen))

/-! ## What DECODE answers (R57, R63) -/

/-- R51, R57: the checksum comparison, as the statements write it. -/
theorem checksumHolds_iff_getLast? (f : ByteSeq) : checksumHolds f = true ↔ f.getLast? = some (xorfold f.dropLast) := by
  rw [checksumHolds, beq_iff_eq, slice_zero, List.getLast?_eq_getElem?, List.dropLast_eq_take]

/-- R57: DECODE refuses operands of other lengths, and of another frame hands over the Result when the checksum holds. -/
theorem decodeResponse_eq (v : Variant) (a b : ByteSeq) :
    decodeResponse v a b =
      if a.length = hdrLen v ∧ b.length ≤ 255 then
        if checksumHolds (a ++ b) then { status := .ok, value := some (.result { variant := v, frame := a ++ b }) }
        else { status := .checksumMismatch, value := none }
      else { status := .lengthError, value := none } := by
  by_cases hlen : a.length = hdrLen v ∧ b.length ≤ 255
  · by_cases hsum : checksumHolds (a ++ b) <;>
      simp [decodeResponse, decodeOp, Config.maxBodyOperand, hlen, hsum, BlockError.status]
  · rw [if_neg hlen]
    exact ofOutcome_of_error (decodeOp_error_iff.2 (.inl ⟨by simpa [imp_iff_not_or] using hlen, rfl⟩))

/-- Settles O11: the answer is `decodeResponse`; only the Result of a match is held, and the errors hand over none. -/
theorem decodeValidatesTheWholeFrame : Obligations.DecodeValidatesTheWholeFrame := by
  intro a b s cfg hcfg
  refine ⟨rfl, ?_⟩
  simp only [← hdrLen_eq_ite, ← checksumHolds_iff_getLast?]
  have hexec : exec (.decode a b) s = .next (s.respond (decodeResponse cfg.variant a b)) := exec_some hcfg _
  rw [hexec, decodeResponse_eq]
  by_cases hlen : a.length = hdrLen cfg.variant ∧ b.length ≤ 255
  · by_cases hsum : checksumHolds (a ++ b)
    · simp only [if_pos hlen, if_pos hsum]
      rfl
    · simp only [if_pos hlen, if_neg hsum]
      rw [State.respond_of_handedResults_nil rfl]
  · simp only [if_neg hlen]
    rw [State.respond_of_handedResults_nil rfl]

/-- R57: a whole header and a body that fits are decoded when their frame folds to zero. -/
theorem answers_decode_ok {hd bd : ByteSeq} {s : State} {cfg : Configuration} (hcfg : s.config = some cfg)
    (hhd : hd.length = hdrLen cfg.variant) (hbd : bd.length ≤ 255) (hsum : checksumHolds (hd ++ bd) = true) :
    Answers (.decode hd bd) s
      { status := .ok, value := some (.result { variant := cfg.variant, frame := hd ++ bd }) } := by
  have hr := decodeResponse_eq cfg.variant hd bd
  rw [if_pos ⟨hhd, hbd⟩, if_pos hsum] at hr
  exact hr ▸ answers_blockAnswer hcfg (.decode hd bd)

/-! ## The parts of a Result's frame (R58, R61) -/

namespace Result

theorem header_eq_take (r : Result) : r.header = r.frame.take (hdrLen r.variant) := slice_zero _ _

theorem body_eq_drop (r : Result) : r.body = r.frame.drop (hdrLen r.variant) := slice_to_end _ _

/-- R58: header and body are the whole frame. -/
theorem header_append_body (r : Result) : r.header ++ r.body = r.frame := by
  rw [header_eq_take, body_eq_drop, List.take_append_drop]

/-- R61: leaving out the last byte of an empty body leaves it empty. -/
theorem data_eq_dropLast (r : Result) : r.data = r.body.dropLast := by
  rw [data, slice_zero, ← List.dropLast_eq_take]
  split
  next hnil => rw [List.length_eq_zero_iff.1 hnil, List.dropLast_nil]
  next => rfl

variable {v : Variant} {hd : ByteSeq}

theorem header_of_append (h : hd.length = hdrLen v) (bd : ByteSeq) : header ⟨v, hd ++ bd⟩ = hd := by
  rw [header_eq_take, ← h, List.take_left]

theorem body_of_append (h : hd.length = hdrLen v) (bd : ByteSeq) : body ⟨v, hd ++ bd⟩ = bd := by
  rw [body_eq_drop, ← h, List.drop_left]

end Result

/-! ## A device-style response (R44 to R47, L2.7) -/

/-- R44, R45: the header a device builds for `d` is whole, and its byte 4 tells a body of one byte more than `d`. -/
theorem deviceHeader_tells_bodyLength {v : Variant} {hb mid cat pg ctl : Byte} {d hd : ByteSeq}
    (hd_eq : hd = if v = .A then [hb, mid, cat, pg, BitVec.ofNat 8 (d.length + 1)]
                  else [hb, mid, cat, pg, BitVec.ofNat 8 (d.length + 2), ctl])
    (hfits : d.length ≤ if v = .A then 254 else 253) :
    hd.length = hdrLen v ∧ bodylenOp v hd = .ok (BitVec.ofNat 8 (d.length + 1)) := by
  subst hd_eq
  cases v with
  | A => exact ⟨rfl, rfl⟩
  | B =>
    have hle : d.length ≤ 253 := hfits
    have hlen : BitVec.ofNat 8 (d.length + 2) - 1#8 = BitVec.ofNat 8 (d.length + 1) := by bv_omega
    have hpos : BitVec.ofNat 8 (d.length + 2) ≠ 0x00#8 := by bv_omega
    exact ⟨rfl, hlen ▸ bodyLengthOf_B hpos⟩

/-- Settles O26: the body is the data and one byte, as the header tells, and that byte makes the checksum hold. -/
theorem deviceResponseRoundTrip : Obligations.DeviceResponseRoundTrip := by
  intro s cfg hb mid cat pg ctl d hd bd b hcfg hfits hhd hbd
  obtain ⟨hlen, hop⟩ := deviceHeader_tells_bodyLength hhd hfits
  have hbdlen : bd.length = d.length + 1 := by rw [hbd, List.length_append, List.length_singleton]
  have hle : d.length ≤ 254 := hfits.trans (by split <;> decide)
  have hsum : checksumHolds (hd ++ bd) = true := by
    rw [hbd, ← List.append_assoc, checksumHolds_concat]
  have hanswer := answers_blockAnswer hcfg (.bodylen hd b)
  rw [← hbdlen] at hop
  refine ⟨bodylenResponse_of_ok hop ▸ hanswer, by omega, ⟨cfg.variant, hd ++ bd⟩,
    answers_decode_ok hcfg hlen (by omega) hsum, rfl, Result.header_of_append hlen bd, Result.body_of_append hlen bd, ?_⟩
  rw [Result.data_eq_dropLast, Result.body_of_append hlen, hbd, List.dropLast_concat]

/-! ## The accessors (R59 to R62) -/

section
variable {s : State} {k : Nat} {r : Result} {f : Field}

/-- R59: an accessor that has a value answers it, and nothing changes but the outputs. -/
theorem accessResult_of_read_ok {v : FieldValue} (hr : s.results[k]? = some r) (hv : r.read f = .ok v) :
    s.accessResult k f = .next { s with trace := s.trace ++ [.field k f v] } := by
  simp only [State.accessResult, hr, hv]
  rfl

/-- R60: an accessor that has no value is refused. -/
theorem accessResult_of_read_error {e : Refusal} (hr : s.results[k]? = some r) (he : r.read f = .error e) :
    s.accessResult k f = .refused e := by
  simp only [State.accessResult, hr, he]

/-- A byte of the frame is read as that byte. -/
theorem byteAt_of_getElem? {i : Nat} {x : Byte} (hx : r.frame[i]? = some x) : r.byteAt i = .ok (.byte x) := by
  simp only [Result.byteAt, hx]

/-- R59, R60: an accessor of byte `i` of a frame that has it answers that byte. -/
theorem accessResult_byteAt {i : Nat} (hr : s.results[k]? = some r) (hread : r.read f = r.byteAt i)
    (hi : i < r.frame.length) :
    ∃ x, r.frame[i]? = some x ∧
      s.accessResult k f = .next { s with trace := s.trace ++ [.field k f (.byte x)] } := by
  have hx : r.frame[i]? = some r.frame[i] := List.getElem?_eq_getElem hi
  exact ⟨_, hx, accessResult_of_read_ok hr (hread.trans (byteAt_of_getElem? hx))⟩

end

/-- Settles O20: each accessor's read is that part of the frame. -/
theorem commonAccessorsReadTheFrame : Obligations.CommonAccessorsReadTheFrame := by
  intro s k r hb mid cat pg rest hr hframe fv hfv
  refine accessResult_of_read_ok hr ?_
  rw [← hdrLen_eq_ite, ← r.header_eq_take, ← r.body_eq_drop] at hfv
  simp only [List.mem_cons, List.not_mem_nil, or_false] at hfv
  obtain rfl | rfl | rfl | rfl | rfl | rfl | rfl := hfv
  · rfl
  · rfl
  · rfl
  all_goals exact byteAt_of_getElem? (by rw [hframe]; rfl)

/-- Settles O21: a valid frame has a whole header, and `Result.read` gives each layout its own fields. -/
theorem variantAccessorsFollowTheLayout : Obligations.VariantAccessorsFollowTheLayout := by
  rintro s k ⟨v, frame⟩ hr ⟨hwhole, -, -⟩
  refine ⟨?_, ?_⟩ <;> rintro ⟨⟩
  · have h4 : 4 < frame.length := Nat.lt_of_lt_of_le (by decide : 4 < 5) hwhole
    exact ⟨accessResult_byteAt hr rfl h4, accessResult_of_read_error hr rfl, accessResult_of_read_error hr rfl⟩
  · have h5 : 5 < frame.length := Nat.lt_of_lt_of_le (by decide : 5 < 6) hwhole
    exact ⟨accessResult_of_read_error hr rfl, accessResult_byteAt hr rfl (Nat.lt_of_succ_lt h5),
      accessResult_byteAt hr rfl h5⟩

/-- Settles O22: the data is the body without its last byte. -/
theorem dataIsTheBodyWithoutItsChecksum : Obligations.DataIsTheBodyWithoutItsChecksum := by
  intro s k r hr
  rw [← hdrLen_eq_ite, ← r.body_eq_drop, ← r.data_eq_dropLast]
  exact ⟨accessResult_of_read_ok hr rfl, by rw [r.data_eq_dropLast, List.length_dropLast]⟩

/-- Settles O23: the last byte of a valid frame is the fold of the rest; an empty body leaves the frame to the header. -/
theorem checksumAccessorIsTheFoldOfTheRest : Obligations.ChecksumAccessorIsTheFoldOfTheRest := by
  rintro s k r hr ⟨-, -, hsum⟩
  have hlast := (checksumHolds_iff_getLast? r.frame).1 hsum
  refine ⟨accessResult_of_read_ok hr (byteAt_of_getElem? ?_), hlast, fun hnil => ?_⟩
  · rwa [← List.getLast?_eq_getElem?]
  · rw [← r.header_append_body, hnil, List.append_nil]

end Sys2Proof.Machine

/-! PROOFS. What a step may do to the Results the callers hold: keep them (O24), and add those its responses hand over
(O25). -/

namespace Sys2Proof.Machine

/-- R58: the Results the responses of some outputs handed over, in their order. -/
def handedBy (o : List Output) : List Result := (blockResponses o).flatMap Response.handedResults

theorem handedBy_append (o o' : List Output) : handedBy (o ++ o') = handedBy o ++ handedBy o' := by
  simp [handedBy, blockResponses]

/-- R58: `t` shows all that `s` showed, and holds the Results of `s` and then those its further responses handed over. -/
def State.AddsHandedResults (s t : State) : Prop :=
  ∃ o, t.trace = s.trace ++ o ∧ t.results = s.results ++ handedBy o

namespace State.AddsHandedResults

variable {s t u : State}

theorem of_outputs_handing_none {o : List Output} (ho : handedBy o = []) (htrace : t.trace = s.trace ++ o)
    (hresults : t.results = s.results) : s.AddsHandedResults t :=
  ⟨o, htrace, by rw [ho, hresults, List.append_nil]⟩

theorem of_eq (htrace : t.trace = s.trace) (hresults : t.results = s.results) : s.AddsHandedResults t :=
  of_outputs_handing_none (o := []) rfl (htrace.trans (List.append_nil _).symm) hresults

theorem refl (s : State) : s.AddsHandedResults s := of_eq rfl rfl

theorem trans (hst : s.AddsHandedResults t) (htu : t.AddsHandedResults u) : s.AddsHandedResults u := by
  obtain ⟨o, htrace, hresults⟩ := hst
  obtain ⟨o', htrace', hresults'⟩ := htu
  exact ⟨o ++ o', by rw [htrace', htrace, List.append_assoc],
    by rw [hresults', hresults, handedBy_append, List.append_assoc]⟩

/-! ## The shared operations on the state -/

/-- R58: a response is the one output that hands over Results, and those are then held. -/
theorem respond (r : Response) (s : State) : s.AddsHandedResults (s.respond r) :=
  ⟨[.response r], rfl, by simp [handedBy, blockResponses]⟩

/-- Any other output hands over none. -/
theorem emit {o : Output} (ho : handedBy [o] = []) (s : State) : s.AddsHandedResults (s.emit o) :=
  of_outputs_handing_none ho rfl rfl

theorem toStep (c : Caller) (h : TransportHandle) (stage : SendStep) (s : State) :
    s.AddsHandedResults (s.toStep c h stage) :=
  of_eq rfl rfl

theorem toStep_call (c : Caller) (h : TransportHandle) (stage : SendStep) (call : TransportCall) (s : State) :
    s.AddsHandedResults ((s.toStep c h stage).emit (.call call)) :=
  (toStep c h stage s).trans (emit (o := .call call) rfl _)

theorem sendReturn (c : Caller) (o : HostOutcome) (s : State) : s.AddsHandedResults (s.sendReturn c o) :=
  of_outputs_handing_none (o := [.sendReturned c o]) rfl rfl rfl

/-! ## The events of the schedule -/

/-- R65: OPEN's call and return hand over nothing, whatever TOpen answers. -/
theorem openLink {link : LinkConfig} {answer : OpenAnswer} (h : s.openLink link answer = .next t) :
    s.AddsHandedResults t := by
  obtain ⟨-, -, rfl⟩ := openLink_next h
  refine (emit (o := .call (.tOpen link)) rfl s).trans ?_
  cases answer with
  | ok h => exact of_outputs_handing_none (o := [.openReturned .ok]) rfl rfl rfl
  | err e => exact emit rfl _

/-- R66, R72: a SEND that starts waits or begins, and asks the block nothing yet. -/
theorem startSend {c : Caller} {p : ByteSeq} (h : s.startSend c p = .next t) : s.AddsHandedResults t := by
  obtain ⟨cfg, hd, -, -, ⟨-, rfl⟩ | ⟨-, -, rfl⟩⟩ := startSend_next h <;> exact of_eq rfl rfl

/-- R72: an offer of the lock moves nothing, or starts a SEND taken out of the waiting ones. -/
theorem grant {k : Nat} (h : s.grant k = .next t) : s.AddsHandedResults t := by
  obtain rfl | ⟨w, -, -, hstart⟩ := grant_next h
  · exact refl _
  · have hwaiting : s.AddsHandedResults { s with waiting := s.waiting.eraseIdx k } := of_eq rfl rfl
    exact hwaiting.trans (startSend hstart)

/-- R66: at each of its own actions the SEND in flight asks the block once or not at all. -/
theorem advance (v : Variant) (c : Caller) (h : TransportHandle) (stage : SendStep) (s : State) :
    s.AddsHandedResults (s.advance v c h stage) := by
  match stage with
  | .encoding p =>
    show s.AddsHandedResults (s.encodeStep c h p)
    obtain ⟨-, heq⟩ | ⟨-, heq⟩ := encodeStep_cases c h p s <;> rw [heq]
    · exact sendReturn c _ s
    · exact (respond _ s).trans (toStep_call c h _ _ _)
  | .writing f => exact refl s
  | .readingHeader none => exact refl s
  | .readingHeader (some hd) =>
    show s.AddsHandedResults (s.deriveStep v c h hd)
    obtain ⟨e, -, heq⟩ | ⟨n, -, -, heq⟩ | ⟨n, -, -, heq⟩ := deriveStep_cases v c h hd s <;> rw [heq]
    · exact (respond _ s).trans (sendReturn c _ _)
    · exact (respond _ s).trans (toStep c h _ _)
    · exact (respond _ s).trans (toStep_call c h _ _ _)
  | .readingBody hd 0 => exact toStep c h _ s
  | .readingBody hd (n + 1) => exact refl s
  | .validating hd bd =>
    show s.AddsHandedResults (s.validateStep v c hd bd)
    obtain ⟨o, heq⟩ := validateStep_cases v c hd bd s
    exact heq ▸ (respond _ s).trans (sendReturn c o _)

/-- R66 step 2: TWrite's answer ends the SEND or moves it on, and asks the block nothing. -/
theorem writeAnswered {answer : WriteAnswer} (h : s.writeAnswered answer = .next t) : s.AddsHandedResults t := by
  obtain ⟨c, hd, f, -, ⟨cause, rfl⟩ | ⟨cfg, -, -, rfl⟩⟩ := writeAnswered_next h
  · exact sendReturn c _ s
  · exact toStep_call c hd _ _ s

/-- R66 steps 3 and 4: TReadExact's answer ends the SEND or moves it on, and asks the block nothing. -/
theorem readAnswered {answer : ReadAnswer} (h : s.readAnswered answer = .next t) : s.AddsHandedResults t := by
  obtain ⟨c, hd, stage, -, ⟨part, cause, rfl⟩ | ⟨cfg, bytes, -, -, -, -, rfl⟩ |
    ⟨header, n, bytes, -, -, -, -, rfl⟩⟩ := readAnswered_next h
  · exact sendReturn c _ s
  · exact toStep c hd _ s
  · exact toStep c hd _ s

/-- No event takes back a Result, and only the responses an event shows hand over new ones. -/
theorem deliver {i : Input} (h : s.deliver i = .next t) : s.AddsHandedResults t := by
  cases i with
  | reset => cases h; exact refl s
  | construct cfg =>
    obtain ⟨-, rfl⟩ := construct_next h
    exact of_eq rfl rfl
  | request r =>
    obtain ⟨cfg, -, rfl⟩ := exec_next h
    exact respond _ s
  | access k f =>
    obtain ⟨r, v, -, -, rfl⟩ := accessResult_next h
    exact emit rfl s
  | openLink link answer => exact openLink h
  | send c p => exact startSend h
  | grant k => exact grant h
  | proceed =>
    obtain ⟨-, rfl⟩ | ⟨c, hd, stage, cfg, -, -, rfl⟩ := proceed_next h
    · exact refl _
    · exact advance _ c hd stage s
  | writeAnswer answer => exact writeAnswered h
  | readAnswer answer => exact readAnswered h
  | closeLink answer =>
    obtain ⟨hd, -, -, rfl⟩ := closeLink_next h
    exact of_outputs_handing_none (o := [.call (.tClose hd), .closeReturned (closeOutcome answer)]) rfl rfl rfl

/-- R58: a step leaves the Results alone, or delivers an event, which only adds those its responses hand over. -/
theorem step (h : step s = .next t) : s.AddsHandedResults t := by
  obtain ⟨-, rfl⟩ | ⟨i, rest, -, hdeliver⟩ := step_next h
  · exact refl _
  · exact (of_eq rfl rfl : s.AddsHandedResults s.dropInput).trans (deliver hdeliver)

end State.AddsHandedResults

/-- Settles O24: the new Results come after those held, which keep their places. -/
theorem heldResultsNeverChange : Obligations.HeldResultsNeverChange := by
  intro s t k r h hr
  obtain ⟨o, -, hresults⟩ := State.AddsHandedResults.step h
  rw [hresults, List.getElem?_append_left (List.getElem?_eq_some_iff.1 hr).1, hr]

/-- Settles O25: the new Results are those the new outputs hand over. -/
theorem resultsComeFromResponsesOnly : Obligations.ResultsComeFromResponsesOnly := by
  intro s t hs h
  obtain ⟨o, htrace, hresults⟩ := State.AddsHandedResults.step h
  calc t.results
      = handedBy s.trace ++ handedBy o := by rw [hresults, hs]; rfl
    _ = handedBy t.trace := by rw [htrace, handedBy_append]

end Sys2Proof.Machine

/-! PROOFS. What the host procedures answer (O42, O43, O45, O46), and what each step of a SEND does: its own actions and the
transport's answers (O48 to O53, O57). -/

namespace Sys2Proof.Machine

namespace State

variable {s : State} {cfg : Configuration} {c : Caller} {h : TransportHandle} {hd bd : ByteSeq}

/-! ## OPEN, CLOSE and the start of a SEND -/

/-- R65: OPEN on a configured client with a closed handle calls TOpen and takes its answer. -/
theorem openLink_of_closed (hc : s.config = some cfg) (hclosed : s.handle = .closed) (link : LinkConfig)
    (answer : OpenAnswer) :
    s.openLink link answer = .next ((s.emit (.call (.tOpen link))).openAnswered answer) := by
  simp [openLink, withConfig_some hc, hclosed]

theorem openLink_of_opened (hc : s.config = some cfg) (hopen : s.handle = .opened h) (link : LinkConfig)
    (answer : OpenAnswer) : s.openLink link answer = .refused .openWhileOpen := by
  simp [openLink, withConfig_some hc, hopen]

/-- R71: CLOSE between SENDs calls TClose and closes the handle whatever it answers. -/
theorem closeLink_of_idle (hopen : s.handle = .opened h) (hidle : s.phase = .idle) (answer : CloseAnswer) :
    s.closeLink answer =
      .next { s with
        handle := .closed
        trace := s.trace ++ [.call (.tClose h), .closeReturned (closeOutcome answer)] } := by
  simp [closeLink, hopen, hidle]

theorem closeLink_of_closed (hclosed : s.handle = .closed) (answer : CloseAnswer) :
    s.closeLink answer = .refused .closeWhileClosed := by
  simp [closeLink, hclosed]

theorem closeLink_of_inFlight {stage : SendStep} {h' : TransportHandle} (hopen : s.handle = .opened h)
    (hp : s.phase = .inFlight c h' stage) (answer : CloseAnswer) :
    s.closeLink answer = .refused .closeWhileInFlight := by
  simp [closeLink, hopen, hp]

/-- R66, R72: a SEND on an open, idle client whose lock is not held begins. -/
theorem startSend_of_idle (hc : s.config = some cfg) (hopen : s.handle = .opened h) (hlock : s.lock ≠ some .held)
    (hidle : s.phase = .idle) (c : Caller) (p : ByteSeq) : s.startSend c p = .next (s.beginSend c h p) := by
  rcases hl : s.lock with _ | _ | _
  · simp [startSend, withConfig_some hc, hopen, hidle, hl]
  · simp [startSend, withConfig_some hc, hopen, hidle, hl]
  · exact absurd hl hlock

/-- R72, K3: without the lock a second SEND has no step. -/
theorem startSend_of_inFlight {stage : SendStep} {c' : Caller} {h' : TransportHandle} (hc : s.config = some cfg)
    (hopen : s.handle = .opened h) (hlock : s.lock = none) (hp : s.phase = .inFlight c' h' stage) (c : Caller)
    (p : ByteSeq) : s.startSend c p = .refused .sendWhileInFlight := by
  simp [startSend, withConfig_some hc, hopen, hlock, hp]

/-- R72: a SEND that finds the lock held waits. -/
theorem startSend_of_held (hc : s.config = some cfg) (hopen : s.handle = .opened h) (hlock : s.lock = some .held)
    (c : Caller) (p : ByteSeq) :
    s.startSend c p = .next { s with waiting := s.waiting ++ [{ caller := c, payload := p }] } := by
  simp [startSend, withConfig_some hc, hopen, hlock]

theorem grant_of_held (hlock : s.lock = some .held) (k : Nat) : s.grant k = .next s := by
  simp [grant, hlock]

/-- R72, K4: the free lock may be given to any waiting SEND, which then starts. -/
theorem grant_of_free {k : Nat} {w : WaitingSend} (hlock : s.lock = some .free) (hw : s.waiting[k]? = some w) :
    s.grant k = startSend w.caller w.payload { s with waiting := s.waiting.eraseIdx k } := by
  simp [grant, hlock, hw]

/-! ## SEND's own actions -/

theorem proceed_of_inFlight {stage : SendStep} (hc : s.config = some cfg) (hp : s.phase = .inFlight c h stage) :
    s.proceed = .next (s.advance cfg.variant c h stage) := by
  simp [proceed, hp, withConfig_some hc]

/-- R66 step 1: a payload that fits is encoded by the block and its frame handed to TWrite. -/
theorem proceed_encoding_fits {p : ByteSeq} (hc : s.config = some cfg) (hp : s.phase = .inFlight c h (.encoding p))
    (hfits : p.length ≤ 253) :
    s.proceed = .next { s with
      phase := .inFlight c h (.writing (commandFrame p))
      trace := s.trace ++ [.response { status := .ok, value := some (.frame (commandFrame p)) },
        .call (.tWrite h (commandFrame p))] } := by
  obtain ⟨hlong, -⟩ | ⟨-, heq⟩ := encodeStep_cases c h p s
  · exact absurd hfits (Nat.not_le.2 hlong)
  · rw [proceed_of_inFlight hc hp, advance, heq, encodeResponse_eq, if_pos hfits]
    simp [respond, toStep, emit]

/-- R66 step 1, R75: an over-long payload ends the SEND before the block or the transport is asked. -/
theorem proceed_encoding_long {p : ByteSeq} (hc : s.config = some cfg) (hp : s.phase = .inFlight c h (.encoding p))
    (hlong : 253 < p.length) : s.proceed = .next (s.sendRaise c (.codec .invalidPayloadLength)) := by
  obtain ⟨-, heq⟩ | ⟨hfits, -⟩ := encodeStep_cases c h p s
  · rw [proceed_of_inFlight hc hp, advance, heq, sendRaise]
  · exact absurd hlong (Nat.not_lt.2 hfits)

/-- R66 step 4: an error of BODYLEN ends the SEND. -/
theorem proceed_header_error {e : BlockError} (hc : s.config = some cfg)
    (hp : s.phase = .inFlight c h (.readingHeader (some hd))) (hop : bodylenOp cfg.variant hd = .error e) :
    s.proceed = .next { s with
      phase := .idle
      lock := s.lock.map fun _ => .free
      trace := s.trace ++ [.response { status := e.status, value := none }, .sendReturned c (.raised (.codec e))] } := by
  rw [proceed_of_inFlight hc hp]
  simp [advance, deriveStep, hop, bodylenResponse, respond, sendReturn]

/-- R66 step 4, D13: the number BODYLEN answers is the length of the body to read, and a body of no bytes needs no read. -/
theorem proceed_header_ok {n : Byte} (hc : s.config = some cfg)
    (hp : s.phase = .inFlight c h (.readingHeader (some hd))) (hop : bodylenOp cfg.variant hd = .ok n) :
    s.proceed = .next { s with
      phase := .inFlight c h (.readingBody hd n.toNat)
      trace := s.trace ++ .response { status := .ok, value := some (.byte n) } ::
        if n = 0x00#8 then [] else [.call (.tReadExact h n.toNat)] } := by
  rw [proceed_of_inFlight hc hp]
  by_cases hn : n = 0x00#8
  · simp [advance, deriveStep, hop, hn, bodylenResponse, respond, toStep]
  · have hpos : n.toNat ≠ 0 := fun hz => hn (BitVec.eq_of_toNat_eq hz)
    simp [advance, deriveStep, hop, hn, hpos, bodylenResponse, respond, toStep, emit]

/-- R66 step 4, D13: a body of no bytes is handed on with no read. -/
theorem proceed_body_empty (hc : s.config = some cfg) (hp : s.phase = .inFlight c h (.readingBody hd 0)) :
    s.proceed = .next (s.toStep c h (.validating hd [])) :=
  proceed_of_inFlight hc hp

/-- R66 step 5: SEND returns the Result DECODE hands over, which the caller then holds. -/
theorem proceed_validating_ok {r : Result} (hc : s.config = some cfg)
    (hp : s.phase = .inFlight c h (.validating hd bd)) (hop : decodeOp cfg.variant hd bd = .ok r) :
    s.proceed = .next { s with
      phase := .idle
      lock := s.lock.map fun _ => .free
      results := s.results ++ [r]
      trace := s.trace ++ [.response { status := .ok, value := some (.result r) },
        .sendReturned c (.result r)] } := by
  rw [proceed_of_inFlight hc hp]
  simp [advance, validateStep, hop, decodeResponse, respond, sendReturn]

/-- R66 step 5, R69: SEND raises DECODE's error, with no Result and no retry. -/
theorem proceed_validating_error {e : BlockError} (hc : s.config = some cfg)
    (hp : s.phase = .inFlight c h (.validating hd bd)) (hop : decodeOp cfg.variant hd bd = .error e) :
    s.proceed = .next { s with
      phase := .idle
      lock := s.lock.map fun _ => .free
      trace := s.trace ++ [.response { status := e.status, value := none }, .sendReturned c (.raised (.codec e))] } := by
  rw [proceed_of_inFlight hc hp]
  simp [advance, validateStep, hop, decodeResponse, respond, sendReturn]

/-! ## The transport's answers -/

section writeAnswer

variable {f : ByteSeq} (hp : s.phase = .inFlight c h (.writing f))
include hp

theorem writeAnswered_err (e : TransportErr) :
    s.writeAnswered (.err e) = .next (s.sendRaise c (.writeError (.transport e))) := by
  simp [writeAnswered, hp]

/-- R67: a short write ends the SEND. -/
theorem writeAnswered_short {n : Nat} (hn : n < f.length) :
    s.writeAnswered (.ok n) = .next (s.sendRaise c (.writeError (.short n))) := by
  simp [writeAnswered, hp, hn]

/-- R70: a complete write is followed by the header read. -/
theorem writeAnswered_complete (hc : s.config = some cfg) :
    s.writeAnswered (.ok f.length) =
      .next ((s.toStep c h (.readingHeader none)).emit (.call (.tReadExact h (hdrLen cfg.variant)))) := by
  simp [writeAnswered, hp, withConfig_some hc]

theorem writeAnswered_excess {n : Nat} (hn : f.length < n) :
    s.writeAnswered (.ok n) = .fault .answerOutsideContract := by
  simp [writeAnswered, hp, Nat.not_lt.2 hn.le, hn.ne']

end writeAnswer

/-- R64: without a write outstanding, an answer to one faults. -/
theorem writeAnswered_without_call (hnone : ∀ c h f, s.phase ≠ .inFlight c h (.writing f)) (answer : WriteAnswer) :
    s.writeAnswered answer = .fault .answerWithoutCall := by
  unfold writeAnswered
  split
  · next hp => exact absurd hp (hnone _ _ _)
  · rfl

/-- R66 step 3: the outstanding header read is of `HDR_LEN(VARIANT)` bytes. -/
theorem readAnswered_header (hc : s.config = some cfg) (hp : s.phase = .inFlight c h (.readingHeader none))
    (answer : ReadAnswer) :
    s.readAnswered answer =
      s.readCompleted c h .header (hdrLen cfg.variant) (fun hd => .readingHeader (some hd)) answer := by
  simp [readAnswered, hp, withConfig_some hc]

/-- R66 step 4: the outstanding body read is of as many bytes as BODYLEN told. -/
theorem readAnswered_body {n : Nat} (hp : s.phase = .inFlight c h (.readingBody hd n)) (hn : n ≠ 0)
    (answer : ReadAnswer) :
    s.readAnswered answer = s.readCompleted c h .body n (fun bd => .validating hd bd) answer := by
  simp [readAnswered, hp, hn]

theorem readCompleted_of_length {part : ReadPart} {next : ByteSeq → SendStep} {bytes : ByteSeq} {n : Nat}
    (hlen : bytes.length = n) : s.readCompleted c h part n next (.ok bytes) = .next (s.toStep c h (next bytes)) := by
  simp [readCompleted, hlen]

theorem readCompleted_of_length_ne {part : ReadPart} {next : ByteSeq → SendStep} {bytes : ByteSeq} {n : Nat}
    (hlen : bytes.length ≠ n) : s.readCompleted c h part n next (.ok bytes) = .fault .answerOutsideContract := by
  simp [readCompleted, hlen]

/-- R64, D13: without a read outstanding, an answer to one faults; a body of no bytes has no read. -/
theorem readAnswered_without_call (hheader : ∀ c h, s.phase ≠ .inFlight c h (.readingHeader none))
    (hbody : ∀ c h hd n, n ≠ 0 → s.phase ≠ .inFlight c h (.readingBody hd n)) (answer : ReadAnswer) :
    s.readAnswered answer = .fault .answerWithoutCall := by
  unfold readAnswered
  split
  · next hp => exact absurd hp (hheader _ _)
  · next n hp =>
    split
    · rfl
    · next hn => exact absurd hp (hbody _ _ _ n hn)
  · rfl

end State

/-! ## The host's procedures -/

/-- Settles O42: OPEN takes TOpen's answer, and an open handle refuses it. -/
theorem openAcquiresTheTransport : Obligations.OpenAcquiresTheTransport := by
  intro s cfg link h e hc
  refine ⟨fun hclosed => ⟨?_, ?_⟩, fun hne answer => ?_⟩
  · simp [State.openLink_of_closed hc hclosed, State.openAnswered, State.emit]
  · simp [State.openLink_of_closed hc hclosed, State.openAnswered, State.emit]
  · cases hh : s.handle with
    | closed => exact absurd hh hne
    | opened h' => exact State.openLink_of_opened hc hh link answer

/-- Settles O43: CLOSE by the handle and the phase it finds. -/
theorem closeAlwaysReleasesTheTransport : Obligations.CloseAlwaysReleasesTheTransport := by
  intro s h e answer
  refine ⟨fun hopen hidle => ⟨State.closeLink_of_idle hopen hidle .ok, State.closeLink_of_idle hopen hidle (.err e)⟩,
    fun hclosed => State.closeLink_of_closed hclosed answer, fun hopen hne => ?_⟩
  cases hp : s.phase with
  | idle => exact absurd hp hne
  | inFlight c h' stage => exact State.closeLink_of_inFlight hopen hp answer

/-- Settles O45: on an idle client SEND is `beginSend`, and a second one without the lock is refused. -/
theorem sendBeginsOrIsRefused : Obligations.SendBeginsOrIsRefused := by
  intro s cfg h c p hc hopen
  refine ⟨fun hlock hidle => State.startSend_of_idle hc hopen hlock hidle c p, fun hlock hne => ?_⟩
  cases hp : s.phase with
  | idle => exact absurd hp hne
  | inFlight c' h' stage => exact State.startSend_of_inFlight hc hopen hlock hp c p

/-- Settles O46: the held lock makes a SEND wait and an offer void; the free lock starts the waiting SEND it is given to. -/
theorem lockedSendsWaitForAnyTurn : Obligations.LockedSendsWaitForAnyTurn := by
  intro s cfg h c p k w hc hopen
  refine ⟨fun hheld => ⟨State.startSend_of_held hc hopen hheld c p, State.grant_of_held hheld k⟩,
    fun hfree hidle hw => ?_⟩
  rw [State.grant_of_free hfree hw, State.startSend_of_idle (s := { s with waiting := s.waiting.eraseIdx k }) hc hopen
    (by simp [hfree]) hidle]
  simp [State.beginSend, hfree]

/-! ## The steps of a SEND -/

/-- Settles O48: step 1, by the payload's length. -/
theorem sendEncodesBeforeItWrites : Obligations.SendEncodesBeforeItWrites :=
  fun _ _ _ _ _ hc hp => ⟨State.proceed_encoding_long hc hp, State.proceed_encoding_fits hc hp⟩

/-- Settles O49: TWrite's answer by its three outcomes. -/
theorem readFollowsCompleteWriteOnly : Obligations.ReadFollowsCompleteWriteOnly := by
  intro s cfg c h f e n hc hp
  rw [← hdrLen_eq_ite]
  exact ⟨State.writeAnswered_err hp e, State.writeAnswered_short hp, State.writeAnswered_complete hp hc⟩

/-- Settles O50: the header read by its three outcomes. -/
theorem headerReadIsWholeOrFails : Obligations.HeaderReadIsWholeOrFails := by
  intro s cfg c h e hd hc hp
  simp only [← hdrLen_eq_ite, State.readAnswered_header hc hp]
  exact ⟨rfl, rfl, State.readCompleted_of_length⟩

/-- Settles O51: step 4, by what BODYLEN answers. -/
theorem bodyReadFollowsTheDerivedLength : Obligations.BodyReadFollowsTheDerivedLength := by
  intro s cfg c h hd n hc hp
  refine ⟨fun hop => State.proceed_header_error hc hp hop, fun hop hzero => ?_, fun hop hpos => ?_⟩
  · rw [State.proceed_header_ok hc hp hop, if_pos hzero, hzero]
    rfl
  · rw [State.proceed_header_ok hc hp hop, if_neg hpos]

/-- Settles O52: an empty body goes straight on, and the read of any other has three outcomes. -/
theorem bodyReadIsWholeOrFails : Obligations.BodyReadIsWholeOrFails := by
  intro s cfg c h hd bd n e hc hp
  refine ⟨fun hzero => State.proceed_body_empty hc (hzero ▸ hp), fun hpos => ?_⟩
  simp only [State.readAnswered_body hp hpos]
  exact ⟨rfl, rfl, State.readCompleted_of_length⟩

/-- R51, R57: a frame with a whole header passes the checksum comparison exactly when it folds to zero. -/
theorem checksumHolds_append_iff {v : Variant} {hd : ByteSeq} (hlen : hd.length = hdrLen v) (bd : ByteSeq) :
    checksumHolds (hd ++ bd) = true ↔ xorfold (hd ++ bd) = 0#8 := by
  have hne : hd ≠ [] := List.ne_nil_of_length_pos (by cases v <;> simp [hlen, hdrLen])
  simp [checksumHolds_iff, hne]

/-- R57: DECODE of operands that fit hands over the Result when their frame folds to zero, and else raises. -/
theorem decodeOp_of_fits {v : Variant} {hd bd : ByteSeq} (hlen : hd.length = hdrLen v) (hfits : bd.length ≤ 255) :
    decodeOp v hd bd =
      if xorfold (hd ++ bd) = 0#8 then .ok { variant := v, frame := hd ++ bd } else .error .checksumMismatch := by
  have hfits' : (headerFits v hd && bodyFits bd) = true := by simp [hlen, Config.maxBodyOperand, hfits]
  simp only [decodeOp, if_pos hfits', checksumHolds_append_iff hlen]

/-- Settles O53: step 5, by what DECODE answers. -/
theorem sendReturnsTheDecodedResult : Obligations.SendReturnsTheDecodedResult := by
  intro s cfg c h hd bd hc hp hlen hfits
  have hop := decodeOp_of_fits (hlen.trans (hdrLen_eq_ite cfg.variant).symm) hfits
  by_cases hfold : xorfold (hd ++ bd) = 0#8
  · rw [if_pos hfold] at hop ⊢
    exact State.proceed_validating_ok hc hp hop
  · rw [if_neg hfold] at hop ⊢
    exact State.proceed_validating_error hc hp hop

/-- Settles O57: an answer past its call's contract faults, and so does one whose call is not outstanding. -/
theorem answersOutsideTheContractFault : Obligations.AnswersOutsideTheContractFault := by
  intro s cfg c h f hd bytes n stage w a hc
  rw [← hdrLen_eq_ite]
  refine ⟨fun hp hn => State.writeAnswered_excess hp hn, fun hp hlen => ?_, fun hp hn hlen => ?_, fun hp hnone => ?_,
    fun hp hheader hbody => ?_, fun hidle => ⟨?_, ?_⟩⟩
  · rw [State.readAnswered_header hc hp, State.readCompleted_of_length_ne hlen]
  · rw [State.readAnswered_body hp hn, State.readCompleted_of_length_ne hlen]
  · exact State.writeAnswered_without_call (fun _ _ f' heq => hnone f' (by cases hp.symm.trans heq; rfl)) w
  · exact State.readAnswered_without_call (by simp [hp, hheader])
      (fun _ _ hd' n' hn heq => hbody hd' n' hn (by cases hp.symm.trans heq; rfl)) a
  · exact State.writeAnswered_without_call (by simp [hidle]) w
  · exact State.readAnswered_without_call (by simp [hidle]) (by simp [hidle]) a

end Sys2Proof.Machine

/-! PROOFS. What an event may do to the SEND in flight (O47, O56), and whole runs: the transport calls stay in order (O40), and
a whole exchange returns its Result (O54). -/

namespace Sys2Proof.Machine

/-- R66: the events that may move the SEND in flight: its own next action, and an answer of the transport. -/
def Input.movesSend : Input → Bool
  | .proceed | .writeAnswer _ | .readAnswer _ => true
  | .reset | .construct _ | .request _ | .access _ _ | .openLink _ _ | .send _ _ | .grant _ | .closeLink _ => false

/-- R72, R87: `t` is what a SEND of caller `c` that returns leaves of `s`: the lock is released, the return is the last output,
and the handle and the waiting SENDs are those of `s`. -/
def State.ReturnedTo (s t : State) (c : Caller) : Prop :=
  t.lock = s.lock.map (fun _ => .free) ∧ (∃ o, t.trace.getLast? = some (.sendReturned c o)) ∧
    t.handle = s.handle ∧ t.waiting = s.waiting

namespace State

variable {s t : State} {c : Caller} {h : TransportHandle} {stage : SendStep}

/-! ## The events that leave the SEND in flight where it is -/

/-- R66, R72: while a SEND is in flight, a SEND that starts can only wait. -/
theorem startSend_inFlight {c' : Caller} {p : ByteSeq} (hp : s.phase = .inFlight c h stage)
    (ht : s.startSend c' p = .next t) : t.phase = s.phase ∧ t.trace = s.trace := by
  obtain ⟨cfg, hd, -, -, ⟨-, rfl⟩ | ⟨-, hidle, -⟩⟩ := startSend_next ht
  · exact ⟨rfl, rfl⟩
  · simp [hp] at hidle

/-- R96: no event but its own action and the transport's answers moves the SEND in flight; none of the others is a call on the
transport either, since OPEN and CLOSE are refused. -/
theorem deliver_of_not_movesSend {i : Input} (hi : i.movesSend = false) (hp : s.phase = .inFlight c h stage)
    (ht : s.deliver i = .next t) :
    t.phase = s.phase ∧ (s.inFlightOk → transportCalls t.trace = transportCalls s.trace) := by
  cases i with
  | reset =>
    cases ht
    exact ⟨rfl, fun _ => rfl⟩
  | construct cfg =>
    obtain ⟨-, rfl⟩ := construct_next ht
    exact ⟨rfl, fun _ => rfl⟩
  | request r =>
    obtain ⟨cfg, -, rfl⟩ := exec_next ht
    exact ⟨rfl, fun _ => by simp [transportCalls]⟩
  | access k f =>
    obtain ⟨r, v, -, -, rfl⟩ := accessResult_next ht
    exact ⟨rfl, fun _ => by simp [transportCalls]⟩
  | openLink link answer =>
    obtain ⟨-, hclosed, rfl⟩ := openLink_next ht
    refine ⟨by cases answer <;> rfl, fun hs => ?_⟩
    obtain ⟨hopen, -⟩ := hs c h stage hp
    simp [hclosed] at hopen
  | send c' p =>
    obtain ⟨hphase, htrace⟩ := startSend_inFlight hp ht
    exact ⟨hphase, fun _ => by rw [htrace]⟩
  | grant k =>
    obtain rfl | ⟨w, -, -, hstart⟩ := grant_next ht
    · exact ⟨rfl, fun _ => rfl⟩
    · obtain ⟨hphase, htrace⟩ := startSend_inFlight (s := { s with waiting := s.waiting.eraseIdx k }) hp hstart
      exact ⟨hphase, fun _ => by rw [htrace]⟩
  | closeLink answer =>
    obtain ⟨hd, -, hidle, -⟩ := closeLink_next ht
    simp [hp] at hidle
  | proceed | writeAnswer answer | readAnswer answer => cases hi

/-! ## The events that move it -/

/-- R66, R72: whatever block request went before it, a return leaves what `ReturnedTo` says. -/
theorem returnedTo_sendReturn {u : State} (hlock : u.lock = s.lock) (hhandle : u.handle = s.handle)
    (hwaiting : u.waiting = s.waiting) (o : HostOutcome) : s.ReturnedTo (u.sendReturn c o) c :=
  ⟨by rw [sendReturn_lock, hlock], ⟨o, by simp⟩, hhandle, hwaiting⟩

/-- R66: the SEND's own action leaves it in flight, or returns. -/
theorem advance_inFlight_or_returned (v : Variant) (hp : s.phase = .inFlight c h stage) :
    (s.advance v c h stage).phase ≠ .idle ∨ s.ReturnedTo (s.advance v c h stage) c := by
  match stage with
  | .encoding p =>
    show (s.encodeStep c h p).phase ≠ .idle ∨ s.ReturnedTo (s.encodeStep c h p) c
    obtain ⟨-, heq⟩ | ⟨-, heq⟩ := encodeStep_cases c h p s <;> rw [heq]
    · exact .inr (returnedTo_sendReturn rfl rfl rfl _)
    · exact .inl nofun
  | .writing f | .readingHeader none | .readingBody hd (n + 1) => exact .inl (hp ▸ nofun)
  | .readingHeader (some hd) =>
    show (s.deriveStep v c h hd).phase ≠ .idle ∨ s.ReturnedTo (s.deriveStep v c h hd) c
    obtain ⟨e, -, heq⟩ | ⟨n, -, -, heq⟩ | ⟨n, -, -, heq⟩ := deriveStep_cases v c h hd s <;> rw [heq]
    · exact .inr (returnedTo_sendReturn rfl rfl rfl _)
    · exact .inl nofun
    · exact .inl nofun
  | .readingBody hd 0 => exact .inl nofun
  | .validating hd bd =>
    show _ ∨ s.ReturnedTo (s.validateStep v c hd bd) c
    obtain ⟨o, heq⟩ := validateStep_cases v c hd bd s
    exact .inr (heq ▸ returnedTo_sendReturn rfl rfl rfl o)

/-- R66, R72, R87: every event leaves the SEND in flight, or returns it and releases its lock. -/
theorem deliver_inFlight_or_returned {i : Input} (hp : s.phase = .inFlight c h stage) (ht : s.deliver i = .next t) :
    t.phase ≠ .idle ∨ s.ReturnedTo t c := by
  by_cases hi : i.movesSend = false
  · obtain ⟨hphase, -⟩ := deliver_of_not_movesSend hi hp ht
    exact .inl (hphase ▸ hp ▸ nofun)
  cases i with
  | proceed =>
    obtain ⟨hidle, -⟩ | ⟨c', h', stage', cfg, hp', -, rfl⟩ := proceed_next ht
    · simp [hp] at hidle
    · cases hp.symm.trans hp'
      exact advance_inFlight_or_returned cfg.variant hp
  | writeAnswer answer =>
    obtain ⟨c', h', f, hp', ⟨cause, rfl⟩ | ⟨cfg, -, -, rfl⟩⟩ := writeAnswered_next ht
    · cases hp.symm.trans hp'
      exact .inr (returnedTo_sendReturn rfl rfl rfl _)
    · exact .inl nofun
  | readAnswer answer =>
    obtain ⟨c', h', stage', hp', ⟨part, cause, rfl⟩ | ⟨cfg, bytes, -, -, -, -, rfl⟩ |
      ⟨header, n, bytes, -, -, -, -, rfl⟩⟩ := readAnswered_next ht
    · cases hp.symm.trans hp'
      exact .inr (returnedTo_sendReturn rfl rfl rfl _)
    · exact .inl nofun
    · exact .inl nofun
  | reset | construct cfg | request r | access k f | openLink link answer | send c' p | grant k | closeLink answer =>
    exact absurd rfl hi

/-- R68, R99: while a call of the SEND is outstanding, the SEND has no action of its own. -/
theorem advance_of_outstanding (v : Variant)
    (hcall : (∃ f, stage = .writing f) ∨ stage = .readingHeader none ∨ ∃ hd n, stage = .readingBody hd n ∧ n ≠ 0) :
    s.advance v c h stage = s := by
  obtain ⟨f, rfl⟩ | rfl | ⟨hd, n, rfl, hn⟩ := hcall
  · rfl
  · rfl
  · exact if_neg hn

end State

/-- Settles O47: the event delivered leaves the SEND in flight, or returns it. -/
theorem everyReturnReleasesTheLock : Obligations.EveryReturnReleasesTheLock := by
  intro s t c h stage hp ht hidle
  obtain ⟨-, rfl⟩ | ⟨i, rest, -, hi⟩ := step_next ht
  · simp [hp] at hidle
  · exact (State.deliver_inFlight_or_returned (s := s.dropInput) hp hi).resolve_left (not_not.2 hidle)

/-- Settles O56: of the events that may move a SEND, its own action finds nothing to do, and the others are the answers. -/
theorem sendBlocksUntilTheTransportAnswers : Obligations.SendBlocksUntilTheTransportAnswers := by
  intro s t c h stage hs hp hcall hwrite hread ht
  obtain ⟨-, rfl⟩ | ⟨i, rest, hin, hi⟩ := step_next ht
  · exact ⟨rfl, rfl⟩
  by_cases hmoves : i.movesSend = false
  · obtain ⟨hphase, hcalls⟩ := State.deliver_of_not_movesSend (s := s.dropInput) hmoves hp hi
    exact ⟨hphase, hcalls hs⟩
  cases i with
  | proceed =>
    obtain ⟨-, rfl⟩ | ⟨c', h', stage', cfg, hp', -, rfl⟩ := State.proceed_next hi
    · exact ⟨rfl, rfl⟩
    · cases hp.symm.trans hp'
      rw [State.advance_of_outstanding cfg.variant hcall]
      exact ⟨rfl, rfl⟩
  | writeAnswer answer => exact absurd (by rw [hin]; rfl) (hwrite answer)
  | readAnswer answer => exact absurd (by rw [hin]; rfl) (hread answer)
  | reset | construct cfg | request r | access k f | openLink link answer | send c' p | grant k | closeLink answer =>
    exact absurd rfl hmoves

/-! ## Runs -/

/-- A run of one step more is a step, and the run from where it leads. -/
theorem run_succ_of_step {s u : State} (hs : step s = .next u) (k : Nat) :
    Host.Core.run Sys2Proof.core (k + 1) s = Host.Core.run Sys2Proof.core k u := by
  have hstep : Sys2Proof.core.step s = .next u := hs
  simp [Host.Core.run, hstep]

/-- A run of one step more that answers next made a step that did. -/
theorem exists_step_of_run_succ {k : Nat} {s t : State} (hrun : Host.Core.run Sys2Proof.core (k + 1) s = .next t) :
    ∃ u, step s = .next u ∧ Host.Core.run Sys2Proof.core k u = .next t := by
  simp only [Host.Core.run] at hrun
  split at hrun
  · next u hs => exact ⟨u, hs, hrun⟩
  · cases hrun
  · cases hrun

/-- What every step keeps, every run keeps. -/
theorem State.Inv.run {s t : State} {k : Nat} (hs : s.Inv) (hrun : Host.Core.run Sys2Proof.core k s = .next t) :
    t.Inv := by
  induction k generalizing s with
  | zero =>
    cases hrun
    exact hs
  | succ k ih =>
    obtain ⟨u, hstep, hrest⟩ := exists_step_of_run_succ hrun
    exact ih (everyStepKeepsTheInvariant s u hs hstep) hrest

/-- Log entry 1: a schedule placed from outside is no part of the invariant. -/
theorem State.Inv.withInputs {s : State} (hs : s.Inv) (schedule : List Input) :
    ({ s with inputs := schedule } : State).Inv :=
  ⟨hs.inFlight, hs.lock, hs.results, hs.handle, hs.exchange⟩

/-- Settles O40: the invariant holds at reset and along every run, and part of it is the order of the transport calls. -/
theorem exchangesNeverInterleave : Obligations.ExchangesNeverInterleave := by
  intro schedule k t hrun
  have hinv : t.Inv := (resetMeetsTheInvariant.withInputs schedule).run hrun
  exact fun hnone => nomatch hnone.symm.trans hinv.exchange

/-- A run delivers the next event of the schedule, and goes on from where it leads. -/
theorem run_succ_of_event {s u : State} {i : Input} {rest : List Input} {k : Nat} {o : StepOutcome}
    (hin : s.inputs = i :: rest) (hi : s.dropInput.deliver i = .next u)
    (hrun : Host.Core.run Sys2Proof.core k u = o) : Host.Core.run Sys2Proof.core (k + 1) s = o :=
  (run_succ_of_step ((step_event hin).trans hi) k).trans hrun

theorem State.deliver_send (c : Caller) (p : ByteSeq) (s : State) : s.deliver (.send c p) = s.startSend c p := rfl

theorem State.deliver_proceed (s : State) : s.deliver .proceed = s.proceed := rfl

theorem State.deliver_writeAnswer (answer : WriteAnswer) (s : State) :
    s.deliver (.writeAnswer answer) = s.writeAnswered answer := rfl

theorem State.deliver_readAnswer (answer : ReadAnswer) (s : State) :
    s.deliver (.readAnswer answer) = s.readAnswered answer := rfl

/-- R66 step 4, D13: the body is handed on, by the SEND's own action when it is empty and else by TReadExact's answer. -/
theorem State.deliver_body {s : State} {cfg : Configuration} {c : Caller} {h : TransportHandle} {hd bd : ByteSeq}
    {n : Byte} (hc : s.config = some cfg) (hp : s.phase = .inFlight c h (.readingBody hd n.toNat))
    (hbd : bd.length = n.toNat) :
    s.deliver (if n = 0x00#8 then .proceed else .readAnswer (.ok bd)) = .next (s.toStep c h (.validating hd bd)) := by
  by_cases hn : n = 0x00#8
  · subst hn
    obtain rfl : bd = [] := List.eq_nil_of_length_eq_zero hbd
    exact proceed_body_empty hc hp
  · have hpos : n.toNat ≠ 0 := fun hz => hn (BitVec.eq_of_toNat_eq hz)
    rw [if_neg hn]
    exact (readAnswered_body hp hpos _).trans (readCompleted_of_length hbd)

/-- R41, R56: BODYLEN tells a length of a whole header only. -/
theorem length_of_bodylenOp_ok {v : Variant} {hd : ByteSeq} {n : Byte} (hop : bodylenOp v hd = .ok n) :
    hd.length = hdrLen v := by
  by_contra hne
  rw [bodylenOp_of_length_ne hne] at hop
  cases hop

/-- Settles O54: the seven events of the schedule, each by what it does to the SEND. -/
theorem wholeExchangeReturnsItsResult : Obligations.WholeExchangeReturnsItsResult := by
  intro s cfg h c p hd bd n rest hc hopen hidle hlock hp hop hbd hfold hin
  have hlen : hd.length = hdrLen cfg.variant := length_of_bodylenOp_ok hop
  have hdecode := decodeOp_of_fits hlen (show bd.length ≤ 255 by omega)
  rw [if_pos hfold] at hdecode
  obtain ⟨config, handle, phase, lock, waiting, results, inputs, trace⟩ := s
  change lock ≠ some .held at hlock
  subst hc hopen hidle hin
  rw [← hdrLen_eq_ite, ← commandFrame_length]
  refine run_succ_of_event rfl ((State.deliver_send ..).trans (State.startSend_of_idle rfl rfl hlock rfl c p)) ?_
  refine run_succ_of_event rfl ((State.deliver_proceed _).trans (State.proceed_encoding_fits rfl rfl hp)) ?_
  refine run_succ_of_event rfl ((State.deliver_writeAnswer ..).trans (State.writeAnswered_complete rfl rfl)) ?_
  refine run_succ_of_event rfl ((State.deliver_readAnswer ..).trans
    ((State.readAnswered_header rfl rfl _).trans (State.readCompleted_of_length hlen))) ?_
  refine run_succ_of_event rfl ((State.deliver_proceed _).trans (State.proceed_header_ok rfl rfl hop)) ?_
  refine run_succ_of_event rfl (State.deliver_body rfl rfl hbd) ?_
  refine run_succ_of_event rfl ((State.deliver_proceed _).trans (State.proceed_validating_ok rfl rfl hdecode)) ?_
  simp [Host.Core.run, State.beginSend, State.toStep, State.emit, State.dropInput, Function.comp_def]

end Sys2Proof.Machine

/-! PROOFS. The machine with no event (O35), a run of any list of requests (O16), and several clients side by side: each owns
its handle exclusively (O59), and their steps commute unless a handle is passed on (O58). -/

namespace Sys2Proof.Machine

/-! ## Runs of requests -/

/-- Settles O35: the schedule has no event to deliver. -/
theorem noEventNoChange : Obligations.NoEventNoChange := fun _ => step_idle

/-- R74, R87: on a constructed client a request answers next whatever its response is; the configuration stays as it is, and
the rest of the schedule comes next. -/
theorem step_request {s : State} {cfg : Configuration} {r : Request} {rest : List Input} (hcfg : s.config = some cfg)
    (hin : s.inputs = .request r :: rest) :
    ∃ u, step s = .next u ∧ u.config = some cfg ∧ u.inputs = rest := by
  have hexec := exec_some (s := s.dropInput) hcfg (Sys2Proof.decode r)
  exact ⟨_, (step_event hin).trans hexec, hcfg, congrArg List.tail hin⟩

/-- Settles O16, by induction on the steps: each answers the next request, and past the last request the machine idles. -/
theorem requestsNeverStopTheBlock : Obligations.RequestsNeverStopTheBlock := by
  intro s cfg requests k hcfg hin
  induction k generalizing s requests with
  | zero => exact ⟨s, rfl⟩
  | succ k ih =>
    cases requests with
    | nil =>
      obtain ⟨t, ht⟩ := ih s [] hcfg hin
      exact ⟨t, (run_succ_of_step (step_idle hin) k).trans ht⟩
    | cons r requests =>
      obtain ⟨u, hstep, hcfg', hin'⟩ := step_request hcfg hin
      obtain ⟨t, ht⟩ := ih u requests hcfg' hin'
      exact ⟨t, (run_succ_of_step hstep k).trans ht⟩

/-! ## Several clients -/

namespace System

variable {y z : System} {j k : Nat} {s t : State} {hd : Handle}

/-- A client of a system in which client `k` was set is client `k` as set, or another as it was. -/
theorem getElem?_set_cases (h : (y.set k t)[j]? = some s) : (j = k ∧ s = t) ∨ (j ≠ k ∧ y[j]? = some s) := by
  by_cases hjk : j = k
  · subst hjk
    obtain ⟨hlt, rfl⟩ := List.getElem?_eq_some_iff.1 h
    exact .inl ⟨rfl, List.getElem_set_self hlt⟩
  · rw [List.getElem?_set_ne (Ne.symm hjk)] at h
    exact .inr ⟨hjk, h⟩

/-- R89: a handle clashes with no client but `k` exactly when another client has it only if it is the closed one. -/
theorem clashes_eq_false_iff :
    y.clashes k hd = false ↔ ∀ j s, j ≠ k → y[j]? = some s → s.handle = hd → hd = .closed := by
  rw [← Bool.not_eq_true, clashes_iff]
  constructor
  · intro hno j s hjk hs hh
    by_contra hopen
    exact hno ⟨hopen, j, s, hjk, hs, hh⟩
  · rintro hno ⟨hopen, j, s, hjk, hs, hh⟩
    exact hopen (hno j s hjk hs hh)

/-- R89: after client `j` was set, a handle clashes with no client but `k` when it did not before and client `j`'s new one is
another. -/
theorem clashes_set_eq_false (hy : y.clashes k hd = false) (ht : t.handle = hd → hd = .closed) :
    System.clashes (y.set j t) k hd = false := by
  rw [clashes_eq_false_iff] at hy ⊢
  intro i u hik hu hh
  obtain ⟨rfl, rfl⟩ | ⟨-, hu'⟩ := getElem?_set_cases hu
  · exact ht hh
  · exact hy i u hik hu' hh

/-- R89, log entry 18: a client's step to a handle that another client has open stops by name. -/
theorem stepClient_clash (hs : y[k]? = some s) (ht : step s = .next t) (hc : y.clashes k t.handle = true) :
    y.stepClient k = .fault .handleOwnedByAnother := by
  simp [stepClient, hs, ht, hc]

/-- R89: setting a client whose handle clashes with no other keeps exclusive ownership. -/
theorem Exclusive.set (hy : y.Exclusive) (hc : y.clashes k t.handle = false) : Exclusive (y.set k t) := by
  rw [clashes_eq_false_iff] at hc
  intro i l u v h hil hu hv hui hvl
  obtain ⟨rfl, rfl⟩ | ⟨hik, hu'⟩ := getElem?_set_cases hu
  · obtain ⟨rfl, -⟩ | ⟨hlk, hv'⟩ := getElem?_set_cases hv
    · exact hil rfl
    · exact nomatch hui.symm.trans (hc l v hlk hv' (hvl.trans hui.symm))
  · obtain ⟨rfl, rfl⟩ | ⟨-, hv'⟩ := getElem?_set_cases hv
    · exact nomatch hvl.symm.trans (hc i u hik hu' (hui.trans hvl.symm))
    · exact hy i l u v h hil hu' hv' hui hvl

/-- R89: no client's step makes two clients own one handle. -/
theorem Exclusive.stepClient (hy : y.Exclusive) (hz : y.stepClient k = .next z) : z.Exclusive := by
  obtain ⟨-, rfl⟩ | ⟨s, t, -, -, hc, rfl⟩ := stepClient_next hz
  · exact hy
  · exact hy.set hc

/-- R89: a client's step leaves every other client as it was. -/
theorem stepClient_getElem?_ne (hz : y.stepClient k = .next z) (hjk : j ≠ k) : z[j]? = y[j]? := by
  obtain ⟨-, rfl⟩ | ⟨s, t, -, -, -, rfl⟩ := stepClient_next hz
  · rfl
  · exact List.getElem?_set_ne hjk.symm

/-- With no client `k`, a step of client `k` moves nothing. -/
theorem stepClient_none (hn : y[k]? = none) : y.stepClient k = .next y := by
  simp [stepClient, hn]

/-- A client that is there has the state it is set to. -/
theorem getElem?_set_self_of_some (hs : y[k]? = some s) (t : State) : (y.set k t)[k]? = some t :=
  List.getElem?_set_self (List.getElem?_eq_some_iff.1 hs).1

/-- A client set to the state it had before gives back the system. -/
theorem set_set_of_getElem? (hs : y[k]? = some s) (t : State) : (y.set k t).set k s = y := by
  obtain ⟨hlt, rfl⟩ := List.getElem?_eq_some_iff.1 hs
  rw [List.set_set, List.set_getElem_self]

/-- R89: steps of two clients that answer next in one order do so in the other, and give the same system, unless the second
client's handle is the one the first client's step gave up. -/
theorem stepClient_comm {s' t' : State} (hjk : j ≠ k) (hs : y[j]? = some s) (hs' : step s = .next s')
    (hcj : y.clashes j s'.handle = false) (ht : y[k]? = some t) (ht' : step t = .next t')
    (hck : System.clashes (y.set j s') k t'.handle = false) (hkept : s.handle = t'.handle → t'.handle = .closed) :
    ∃ z', y.stepClient k = .next z' ∧ z'.stepClient j = .next ((y.set j s').set k t') := by
  have hck' : y.clashes k t'.handle = false := by
    rw [← set_set_of_getElem? hs s']
    exact clashes_set_eq_false hck hkept
  have hcj' : System.clashes (y.set k t') j s'.handle = false := by
    refine clashes_set_eq_false hcj fun hh => ?_
    rw [← hh]
    exact clashes_eq_false_iff.1 hck j s' hjk (getElem?_set_self_of_some hs s') hh.symm
  refine ⟨y.set k t', stepClient_some ht ht' hck', ?_⟩
  rw [List.set_comm _ _ hjk]
  exact stepClient_some ((List.getElem?_set_ne hjk.symm).trans hs) hs' hcj'

end System

/-- Settles O59: what a step sets clashes with no other client, and a step that would clash faults. -/
theorem clientsOwnTheirHandlesExclusively : Obligations.ClientsOwnTheirHandlesExclusively := by
  refine ⟨fun y z k hy hz => hy.stepClient hz, fun y k s t hs ht => ⟨fun hno => ?_, ?_⟩⟩
  · refine System.stepClient_some hs ht (System.clashes_eq_false_iff.2 fun j u hjk hu hh => ?_)
    cases hopen : t.handle with
    | closed => rfl
    | opened h => exact absurd (hh.trans hopen) (hno j u h hjk hu hopen)
  · intro j u h hjk hu hth huh
    exact System.stepClient_clash hs ht
      ((System.clashes_iff y k t.handle).2 ⟨by simp [hth], j, u, hjk, hu, huh.trans hth.symm⟩)

/-- Settles O58: a step of a client that is not there moves nothing, and two steps of clients that are there commute unless
the second client opens the handle the first gave up. -/
theorem separateClientsAreIndependent : Obligations.SeparateClientsAreIndependent := by
  refine ⟨fun y z j k hz hjk => System.stepClient_getElem?_ne hz hjk, fun y z w j k hjk hz hw => ?_⟩
  obtain ⟨hjnone, rfl⟩ | ⟨s, s', hs, hs', hcj, rfl⟩ := System.stepClient_next hz
  · exact .inl ⟨w, hw, System.stepClient_none ((System.stepClient_getElem?_ne hw hjk).trans hjnone)⟩
  obtain ⟨hknone, rfl⟩ | ⟨t, t', ht, ht', hck, rfl⟩ := System.stepClient_next hw
  · rw [List.getElem?_set_ne hjk] at hknone
    exact .inl ⟨y, System.stepClient_none hknone, hz⟩
  have hty : y[k]? = some t := (List.getElem?_set_ne hjk).symm.trans ht
  by_cases hkept : s.handle = t'.handle → t'.handle = .closed
  · exact .inl (System.stepClient_comm hjk hs hs' hcj hty ht' hck hkept)
  · obtain ⟨hpassed, hopen⟩ := Classical.not_imp.1 hkept
    cases hh : t'.handle with
    | closed => exact absurd hh hopen
    | opened h =>
      exact .inr ⟨h, s, t', hs, hpassed.trans hh, System.getElem?_set_self_of_some ht t', hh⟩

end Sys2Proof.Machine

/-! PROOFS. What is refused before VARIANT is fixed and after, and that no step changes it (O19); the reset of the block
(O36); the host calls refused before construction or with the handle closed (O44); and the one SEND in flight (O55). -/

namespace Sys2Proof.Machine

/-- R66: caller `c`'s SEND on handle `h` has returned, or is in flight past its step 1. -/
def Phase.PastEncoding (c : Caller) (h : TransportHandle) (phase : Phase) : Prop :=
  phase = .idle ∨ ∃ stage, phase = .inFlight c h stage ∧ ∀ p, stage ≠ .encoding p

namespace State

variable {s t : State} {cfg : Configuration} {c : Caller} {h : TransportHandle} {stage : SendStep}

/-! ## Refusals -/

/-- R18, log entry 23: a constructed client refuses any further construction. -/
theorem construct_of_configured (hc : s.config = some cfg) (cfg' : Configuration) :
    s.construct cfg' = .refused .variantAlreadyFixed := by
  simp [construct, hc]

/-- R94, log entry 4: OPEN needs a constructed client. -/
theorem openLink_of_unconfigured (hc : s.config = none) (link : LinkConfig) (answer : OpenAnswer) :
    s.openLink link answer = .refused .variantNotFixed :=
  withConfig_none hc _

/-- R94, log entry 4: SEND needs a constructed client. -/
theorem startSend_of_unconfigured (hc : s.config = none) (c : Caller) (p : ByteSeq) :
    s.startSend c p = .refused .variantNotFixed :=
  withConfig_none hc _

/-- R66, D26: SEND needs an open handle. -/
theorem startSend_of_closed (hc : s.config = some cfg) (hclosed : s.handle = .closed) (c : Caller) (p : ByteSeq) :
    s.startSend c p = .refused .sendWhileClosed := by
  simp [startSend, withConfig_some hc, hclosed]

/-! ## The configuration, once fixed -/

theorem openAnswered_config (answer : OpenAnswer) (s : State) : (s.openAnswered answer).config = s.config := by
  cases answer <;> rfl

theorem startSend_config {p : ByteSeq} (ht : s.startSend c p = .next t) : t.config = s.config := by
  obtain ⟨cfg, hd, -, -, ⟨-, rfl⟩ | ⟨-, -, rfl⟩⟩ := startSend_next ht <;> rfl

/-- R72: an offer of the lock moves nothing, or starts a SEND taken out of the waiting ones. -/
theorem grant_config {k : Nat} (ht : s.grant k = .next t) : t.config = s.config := by
  obtain rfl | ⟨w, -, -, hstart⟩ := grant_next ht
  · rfl
  · exact startSend_config (s := { s with waiting := s.waiting.eraseIdx k }) hstart

/-- R18: SEND's own actions read VARIANT and never set it. -/
theorem advance_config (v : Variant) (c : Caller) (h : TransportHandle) (stage : SendStep) (s : State) :
    (s.advance v c h stage).config = s.config := by
  match stage with
  | .encoding p =>
    show (s.encodeStep c h p).config = s.config
    obtain ⟨-, heq⟩ | ⟨-, heq⟩ := encodeStep_cases c h p s <;> rw [heq] <;> rfl
  | .readingHeader (some hd) =>
    show (s.deriveStep v c h hd).config = s.config
    obtain ⟨e, -, heq⟩ | ⟨n, -, -, heq⟩ | ⟨n, -, -, heq⟩ := deriveStep_cases v c h hd s <;> rw [heq] <;> rfl
  | .validating hd bd =>
    show (s.validateStep v c hd bd).config = s.config
    obtain ⟨o, heq⟩ := validateStep_cases v c hd bd s
    rw [heq]
    rfl
  | .writing f | .readingHeader none | .readingBody hd 0 | .readingBody hd (n + 1) => rfl

/-- R18, R93: an event of a constructed client leaves its configuration: construction alone sets one, and is refused. -/
theorem deliver_config {i : Input} (hc : s.config = some cfg) (ht : s.deliver i = .next t) : t.config = s.config := by
  cases i with
  | reset => cases ht; rfl
  | construct cfg' =>
    obtain ⟨hnone, -⟩ := construct_next ht
    simp [hc] at hnone
  | request r =>
    obtain ⟨cfg', -, rfl⟩ := exec_next ht
    rfl
  | access k f =>
    obtain ⟨r, v, -, -, rfl⟩ := accessResult_next ht
    rfl
  | openLink link answer =>
    obtain ⟨-, -, rfl⟩ := openLink_next ht
    exact openAnswered_config answer _
  | send c' p => exact startSend_config ht
  | grant k => exact grant_config ht
  | proceed =>
    obtain ⟨-, rfl⟩ | ⟨c', h', stage', cfg', -, -, rfl⟩ := proceed_next ht
    · rfl
    · exact advance_config cfg'.variant c' h' stage' s
  | writeAnswer answer =>
    obtain ⟨c', h', f, -, ⟨cause, rfl⟩ | ⟨cfg', -, -, rfl⟩⟩ := writeAnswered_next ht <;> rfl
  | readAnswer answer =>
    obtain ⟨c', h', stage', -, ⟨part, cause, rfl⟩ | ⟨cfg', bytes, -, -, -, -, rfl⟩ |
      ⟨header, n, bytes, -, -, -, -, rfl⟩⟩ := readAnswered_next ht <;> rfl
  | closeLink answer =>
    obtain ⟨hd, -, -, rfl⟩ := closeLink_next ht
    rfl

/-! ## The one SEND in flight -/

/-- R66: its own action takes the SEND past step 1, or returns it; where a call is outstanding it is past step 1 already. -/
theorem advance_pastEncoding (v : Variant) (hp : s.phase = .inFlight c h stage) :
    (s.advance v c h stage).phase.PastEncoding c h := by
  match stage with
  | .encoding p =>
    show (s.encodeStep c h p).phase.PastEncoding c h
    obtain ⟨-, heq⟩ | ⟨-, heq⟩ := encodeStep_cases c h p s <;> rw [heq]
    · exact .inl rfl
    · exact .inr ⟨_, rfl, nofun⟩
  | .readingHeader (some hd) =>
    show (s.deriveStep v c h hd).phase.PastEncoding c h
    obtain ⟨e, -, heq⟩ | ⟨n, -, -, heq⟩ | ⟨n, -, -, heq⟩ := deriveStep_cases v c h hd s <;> rw [heq]
    · exact .inl rfl
    · exact .inr ⟨_, rfl, nofun⟩
    · exact .inr ⟨_, rfl, nofun⟩
  | .readingBody hd 0 => exact .inr ⟨_, rfl, nofun⟩
  | .validating hd bd =>
    show (s.validateStep v c hd bd).phase.PastEncoding c h
    obtain ⟨o, heq⟩ := validateStep_cases v c hd bd s
    exact heq ▸ .inl rfl
  | .writing f | .readingHeader none | .readingBody hd (n + 1) =>
    exact .inr ⟨_, hp, nofun⟩

/-- R66, R96: an event that may move the SEND in flight takes it past step 1, or returns it. -/
theorem deliver_pastEncoding {i : Input} (hi : i.movesSend = true) (hp : s.phase = .inFlight c h stage)
    (ht : s.deliver i = .next t) : t.phase.PastEncoding c h := by
  cases i with
  | proceed =>
    obtain ⟨hidle, -⟩ | ⟨c', h', stage', cfg, hp', -, rfl⟩ := proceed_next ht
    · simp [hp] at hidle
    · cases hp.symm.trans hp'
      exact advance_pastEncoding cfg.variant hp
  | writeAnswer answer =>
    obtain ⟨c', h', f, hp', hcases⟩ := writeAnswered_next ht
    cases hp.symm.trans hp'
    obtain ⟨cause, rfl⟩ | ⟨cfg, -, -, rfl⟩ := hcases
    · exact .inl rfl
    · exact .inr ⟨_, rfl, nofun⟩
  | readAnswer answer =>
    obtain ⟨c', h', stage', hp', hcases⟩ := readAnswered_next ht
    cases hp.symm.trans hp'
    obtain ⟨part, cause, rfl⟩ | ⟨cfg, bytes, -, -, -, -, rfl⟩ | ⟨header, n, bytes, -, -, -, -, rfl⟩ := hcases
    · exact .inl rfl
    · exact .inr ⟨_, rfl, nofun⟩
    · exact .inr ⟨_, rfl, nofun⟩
  | reset | construct cfg | request r | access k f | openLink link answer | send c' p | grant k | closeLink answer =>
    cases hi

end State

/-- Settles O19: an unconfigured block refuses a request, a configured client refuses a construction, and no event that is
answered sets the configuration again. -/
theorem variantIsFixedOnceBeforeAnyRequest : Obligations.VariantIsFixedOnceBeforeAnyRequest := by
  refine ⟨fun r s rest hnone hin => ?_, fun cfg cfg' s rest hc hin => ?_, fun s t cfg hc ht => ?_⟩
  · exact (step_event hin).trans (exec_none (s := s.dropInput) hnone (Sys2Proof.decode r))
  · exact (step_event hin).trans (State.construct_of_configured (s := s.dropInput) hc cfg')
  · obtain ⟨-, rfl⟩ | ⟨i, rest, -, hi⟩ := step_next ht
    · exact hc
    · exact (State.deliver_config (s := s.dropInput) hc hi).trans hc

/-- Settles O36: the step takes the reset off the schedule, and the reset does nothing. -/
theorem blockResetChangesNothing : Obligations.BlockResetChangesNothing := fun _ _ hin => step_event_rest hin

/-- Settles O44: SEND and OPEN ask for the configuration first, and SEND then for the handle. -/
theorem hostCallsNeedConstructionAndOpen : Obligations.HostCallsNeedConstructionAndOpen := by
  intro s c p link answer
  refine ⟨fun hnone => ⟨State.startSend_of_unconfigured hnone c p, State.openLink_of_unconfigured hnone link answer⟩,
    fun hne hclosed => ?_⟩
  obtain ⟨cfg, hc⟩ := Option.ne_none_iff_exists'.1 hne
  exact State.startSend_of_closed hc hclosed c p

/-- Settles O55: an event that may not move the SEND leaves the phase, and one that may takes it past step 1 or returns it. -/
theorem oneExchangeAtATime : Obligations.OneExchangeAtATime := by
  intro s t c h stage hp ht
  obtain ⟨-, rfl⟩ | ⟨i, rest, -, hi⟩ := step_next ht
  · exact .inr ⟨stage, hp, .inr rfl⟩
  cases hmoves : i.movesSend with
  | false =>
    obtain ⟨hphase, -⟩ := State.deliver_of_not_movesSend (s := s.dropInput) hmoves hp hi
    exact .inr ⟨stage, hphase.trans hp, .inr hphase⟩
  | true =>
    obtain hidle | ⟨stage', hp', hpast⟩ := State.deliver_pastEncoding (s := s.dropInput) hmoves hp hi
    · exact .inl hidle
    · exact .inr ⟨stage', hp', .inl hpast⟩

end Sys2Proof.Machine

/-! PROOFS. The host's placing of an opcode-table word (log entries 2 and 3): the next step runs it (O34). -/

namespace Sys2Proof.Machine

/-- Log entry 2: a word of at least 3 bits stands for the request its bits 2:0 name, with empty operands. -/
theorem requestOfWord_of_le {nbits : Nat} (h : 3 ≤ nbits) (w : Nat) :
    requestOfWord nbits w = some { op := BitVec.ofNat 3 w, a := [], b := [] } :=
  if_neg (Nat.not_lt.2 h)

/-- Log entry 3: VARIANT as the presented request finds it, the configuration already fixed or else layout B without the
lock. -/
def State.presentedConfig (s : State) : Configuration := s.config.getD { variant := .B, sendLock := false }

/-- R93: presenting a request keeps a configuration already fixed. -/
theorem State.config_eq_none_or_presentedConfig (s : State) : s.config = none ∨ s.config = some s.presentedConfig := by
  unfold State.presentedConfig
  cases s.config with
  | none => exact .inl rfl
  | some cfg => exact .inr rfl

/-- Log entry 3: a word's request goes to the head of the schedule, and the configuration is fixed. -/
theorem State.withFetchWord_of_request {nbits w : Nat} {r : Request} (h : requestOfWord nbits w = some r) (s : State) :
    s.withFetchWord nbits w = { s with config := some s.presentedConfig, inputs := .request r :: s.inputs } := by
  simp only [State.withFetchWord, State.presentWord, h, State.presentedConfig]

/-- Settles O34: the word's request is at the head of the schedule, so the step takes it off and runs its instruction. -/
theorem presentedWordRunsNext : Obligations.PresentedWordRunsNext := by
  intro s nbits w hbits
  have hreq := requestOfWord_of_le hbits w
  refine ⟨_, s.presentedConfig, congrArg (Option.map Sys2Proof.decode) hreq, s.config_eq_none_or_presentedConfig, ?_⟩
  rw [State.withFetchWord_of_request hreq]
  exact step_event_rest (i := .request _) rfl

end Sys2Proof.Machine
